-- ==== Sys2Proof/Word.lean ====
section
/-! DEFINITION. Word.lean: the part's words, their plainest arithmetic, and the two small containers
(`Four` for streams and sectors, `Six` for plies) the state is built from. -/

namespace Sys2Proof

/-- A word of the form bus, 32 bits, bit 31 the most significant (section 0.5). -/
abbrev Word := BitVec 32

/-- A byte: a tally character, a command code, a tag. -/
abbrev Byte := BitVec 8

/-- A byte address of the form bus, 28 bits (section 3.1). -/
abbrev Addr := BitVec 28

/-- One more, staying at the largest value ("saturating", section 0.5). -/
def satSucc {n : Nat} (w : BitVec n) : BitVec n :=
  if w = BitVec.allOnes n then w else w + 1

/-- One value for each of four: the streams S0 to S3, the sectors 0 to 3. -/
structure Four (α : Type) where
  a0 : α
  a1 : α
  a2 : α
  a3 : α
deriving DecidableEq, Repr

namespace Four

def get {α : Type} (v : Four α) : Fin 4 → α
  | 0 => v.a0
  | 1 => v.a1
  | 2 => v.a2
  | 3 => v.a3

def set {α : Type} (v : Four α) (i : Fin 4) (x : α) : Four α :=
  match i with
  | 0 => { v with a0 := x }
  | 1 => { v with a1 := x }
  | 2 => { v with a2 := x }
  | 3 => { v with a3 := x }

def map {α β : Type} (f : α → β) (v : Four α) : Four β :=
  ⟨f v.a0, f v.a1, f v.a2, f v.a3⟩

def const {α : Type} (x : α) : Four α := ⟨x, x, x, x⟩

def toList {α : Type} (v : Four α) : List α := [v.a0, v.a1, v.a2, v.a3]

end Four

/-- The four stream or sector numbers, in ascending order. -/
def fours : List (Fin 4) := [0, 1, 2, 3]

/-- One value for each of the six plies: ply k stands at index k − 1. -/
structure Six (α : Type) where
  p1 : α
  p2 : α
  p3 : α
  p4 : α
  p5 : α
  p6 : α
deriving DecidableEq, Repr

namespace Six

def get {α : Type} (v : Six α) : Fin 6 → α
  | 0 => v.p1
  | 1 => v.p2
  | 2 => v.p3
  | 3 => v.p4
  | 4 => v.p5
  | 5 => v.p6

def set {α : Type} (v : Six α) (i : Fin 6) (x : α) : Six α :=
  match i with
  | 0 => { v with p1 := x }
  | 1 => { v with p2 := x }
  | 2 => { v with p3 := x }
  | 3 => { v with p4 := x }
  | 4 => { v with p5 := x }
  | 5 => { v with p6 := x }

def map {α β : Type} (f : α → β) (v : Six α) : Six β :=
  ⟨f v.p1, f v.p2, f v.p3, f v.p4, f v.p5, f v.p6⟩

def const {α : Type} (x : α) : Six α := ⟨x, x, x, x, x, x⟩

def toList {α : Type} (v : Six α) : List α := [v.p1, v.p2, v.p3, v.p4, v.p5, v.p6]

end Six

/-- The six plies, ply 1 (index 0) first. -/
def plies : List (Fin 6) := [0, 1, 2, 3, 4, 5]

end Sys2Proof
end

