-- ==== Sys2Proof/Syntax.lean ====
section
/-! DEFINITION. Syntax.lean: the commands of the block, one constructor per row of spec/opcode_table.json,
with the operands each event brings. -/

namespace Sys2Proof

/-- A ply: index k − 1 is ply k. -/
abbrev Ply := Fin 6

/-- A stream S0 to S3. -/
abbrev StreamId := Fin 4

/-- A sector 0 to 3 of the number store. -/
abbrev SectorId := Fin 4

/-- One word of a write access: its data and a byte enable for each byte, enable i for bits 8i+7 to 8i
(section 3.1). -/
structure WordWrite where
  data : Word
  enables : BitVec 4
deriving DecidableEq, Repr

/-- A full write of the command word by the press controller: the code is the row's; the word's bits 31:16
are not read (R196); the argument words are those the same burst carries behind it (R150). -/
structure CommandWrite where
  tag : Byte
  upper : BitVec 16
  arg1 : Option WordWrite
  arg2 : Option WordWrite
deriving DecidableEq, Repr

/-- What an access does: a read of a burst of words, or a write of the words given (section 3.1). -/
inductive AccessBody where
  | read (burst : Nat)
  | write (words : List WordWrite)
deriving DecidableEq, Repr

/-- An access of the form bus (section 3.1). -/
structure Access where
  addr : Addr
  body : AccessBody
deriving DecidableEq, Repr

/-- The response to one access: the access's address, the status (true for OK, false for FAIL) and, for a
read, memory's data words. A response with no word is a write's (log 12). -/
structure Response where
  addr : Addr
  ok : Bool
  words : List Word
deriving DecidableEq, Repr

/-- What a reset leaves in the slot whose programming it cut off (R130, R149): log 8. -/
inductive SlotLeft where
  | erased
  | torn
  | whole
deriving DecidableEq, Repr

/-- What a reset brings with it. Of an operation in flight it leaves the slot of a cut-off programming, and of the
sector of a cut-off erase the slots that kept their entry and those left programmed with a failing check. Every other
slot of that sector is erased (R136, R149): log 8. `held`: the RESET line is held after it (R51): log 17. -/
structure Cut where
  program : SlotLeft
  kept : List Nat
  torn : List Nat
  held : Bool
deriving DecidableEq, Repr

/-- How an erase ended (R136): every slot erased, or the slots that kept their entry and those left with a
failing check. -/
inductive EraseResult where
  | erased
  | failed (kept torn : List Nat)
deriving DecidableEq, Repr

/-- The commands the block takes, in the order of spec/opcode_table.json. -/
inductive Instr where
  /-- LOAD (R155). -/
  | load (w : CommandWrite)
  /-- START (R116). -/
  | start (w : CommandWrite)
  /-- STOP (R117). -/
  | stop (w : CommandWrite)
  /-- HOLD (R118). -/
  | hold (w : CommandWrite)
  /-- RESUME (R119). -/
  | resume (w : CommandWrite)
  /-- ABORT (R120). -/
  | abort (w : CommandWrite)
  /-- CLOSE (R186). -/
  | close (w : CommandWrite)
  /-- SPOIL (R90). -/
  | spoil (w : CommandWrite)
  /-- RETIRE (R147). -/
  | retire (w : CommandWrite)
  /-- ACK (R180). -/
  | ack (w : CommandWrite)
  /-- CLEAR_HISTORY (R181). -/
  | clearHistory (w : CommandWrite)
  /-- UNKNOWN_COMMAND (R163). -/
  | unknownCommand (code : Byte) (w : CommandWrite)
  /-- PARTIAL_COMMAND_WRITE (R162). -/
  | partialCommandWrite (c : WordWrite) (arg1 arg2 : Option WordWrite)
  /-- STAGING_WRITE (R151): a write access of the press controller. -/
  | stagingWrite (addr : Addr) (words : List WordWrite)
  /-- POP_WORD_READ (R174): a read response to the press controller. -/
  | popWordRead (r : Response)
  /-- HEAD_FEEDER_ACCESS (R55). -/
  | headFeederAccess (k : Ply) (a : Access)
  /-- READ_RESPONSE (R50). -/
  | readResponse (k : Ply) (r : Response)
  /-- BIND_WAIT_EXPIRY (R69). -/
  | bindWaitExpiry (k : Ply)
  /-- ENC_EDGE (R110). -/
  | encEdge (rising : Bool)
  /-- PITCH_EVENT (R111). -/
  | pitchEvent
  /-- CUE_EDGE (R112). -/
  | cueEdge
  /-- SYNTHETIC_PITCH_EVENT (R113). -/
  | syntheticPitchEvent
  /-- DEADLINE_EVENT (R41). -/
  | deadlineEvent
  /-- LINE_SAMPLE (R105): the level of input n at bit n; bit 0, ENC, is not sampled. -/
  | lineSample (levels : BitVec 18)
  /-- SPLICE_EDGE (R87). -/
  | spliceEdge (k : Ply)
  /-- BREAK_EDGE (R107). -/
  | breakEdge (k : Ply)
  /-- JAM_EDGE (R107). -/
  | jamEdge
  /-- HOLDREQ_CHANGE (R108). -/
  | holdreqChange (active : Bool)
  /-- PWRWARN_ACTIVE (R140). -/
  | pwrwarnActive
  /-- PWRWARN_INACTIVE (R140). -/
  | pwrwarnInactive
  /-- TALLY_CHARACTER (R72): the data bits and the stop bit of one framed character. -/
  | tallyCharacter (k : Ply) (data : Byte) (stopHigh : Bool)
  /-- APPEND_COMPLETION (R135): whether the slot verifies. -/
  | appendCompletion (verified : Bool)
  /-- COMPACTION_STEP_COMPLETION (R138): whether the slot verifies. -/
  | compactionStepCompletion (verified : Bool)
  /-- ERASE_COMPLETION (R136). -/
  | eraseCompletion (r : EraseResult)
  /-- POWER_ON_RESET (R127): the WBASE straps, what was cut off, and whether the RESET line is held after it
  (R51; log 17). -/
  | powerOnReset (straps : Byte) (cut : Cut)
  /-- WARM_RESET (R127): what was cut off, and whether the RESET line is held after it; on a reset already held, with
  `held` no, its release (R51; log 17). -/
  | warmReset (cut : Cut)
  /-- RECOVERY_SCAN (R142). -/
  | recoveryScan
  /-- TALLY_LINE_IDLE_SEEN (R72). -/
  | tallyLineIdleSeen (k : Ply)
deriving DecidableEq, Repr

end Sys2Proof
end

