-- ==== Sys2Proof/WellFormed.lean ====
section
/-! DEFINITION. WellFormed.lean: which commands the form bus and the press can bring (section 3.1, R162,
R163). A meaning is total on every command; this check says which of them stand for an event of the part. -/

namespace Sys2Proof

/-- "all addresses the part acts on are word aligned" (section 0.5). -/
def wordAligned (a : Addr) : Bool := a.toNat % 4 == 0

/-- A burst is 1 to 16 words (section 3.1). -/
def burstOk (n : Nat) : Bool := decide (1 ≤ n ∧ n ≤ 16)

/-- A burst is contiguous: the second argument word comes only behind the first. -/
def argsOk (arg1 arg2 : Option WordWrite) : Bool := arg1.isSome || arg2.isNone

def CommandWrite.wf (w : CommandWrite) : Bool := argsOk w.arg1 w.arg2

def Access.wf (a : Access) : Bool :=
  wordAligned a.addr && match a.body with
    | .read n => burstOk n
    | .write ws => burstOk ws.length

/-- A read's response carries its burst's words; a write's carries none (log 12). -/
def Response.wf (r : Response) : Bool := wordAligned r.addr && decide (r.words.length ≤ 16)

/-- The codes 1 to 11 are the eleven commands (R194); every other code is no command (R163). -/
def isCommandCode (c : Byte) : Bool := decide (1 ≤ c.toNat ∧ c.toNat ≤ 11)

/-- Slot numbers are 0 to 255 (R128). -/
def slotsOk (l : List Nat) : Bool := l.all (· < 256)

namespace Instr

/-- The well-formed commands. -/
def wf : Instr → Bool
  | .load w => w.wf
  | .start w => w.wf
  | .stop w => w.wf
  | .hold w => w.wf
  | .resume w => w.wf
  | .abort w => w.wf
  | .close w => w.wf
  | .spoil w => w.wf
  | .retire w => w.wf
  | .ack w => w.wf
  | .clearHistory w => w.wf
  | .unknownCommand code w => !isCommandCode code && w.wf
  | .partialCommandWrite c arg1 arg2 => c.enables != 15 && argsOk arg1 arg2
  | .stagingWrite addr words => wordAligned addr && burstOk words.length
  | .popWordRead r => r.wf && burstOk r.words.length
  | .headFeederAccess _ a => a.wf
  | .readResponse _ r => r.wf
  | .bindWaitExpiry _ => true
  | .encEdge _ => true
  | .pitchEvent => true
  | .cueEdge => true
  | .syntheticPitchEvent => true
  | .deadlineEvent => true
  | .lineSample _ => true
  | .spliceEdge _ => true
  | .breakEdge _ => true
  | .jamEdge => true
  | .holdreqChange _ => true
  | .pwrwarnActive => true
  | .pwrwarnInactive => true
  | .tallyCharacter _ _ _ => true
  | .appendCompletion _ => true
  | .compactionStepCompletion _ => true
  | .eraseCompletion r =>
    match r with
    | .erased => true
    | .failed kept torn => slotsOk kept && slotsOk torn
  | .powerOnReset _ cut => slotsOk cut.kept && slotsOk cut.torn
  | .warmReset cut => slotsOk cut.kept && slotsOk cut.torn
  | .recoveryScan => true
  | .tallyLineIdleSeen _ => true

end Instr
end Sys2Proof
end

