-- ==== Sys2Proof/Decode.lean ====
section
/-! DEFINITION. Decode.lean: the commands a word spells by the bits of spec/opcode_table.json. No row of the
table gives bits (every "fields" is empty and none has a pattern), so no word spells a command. The bits of
the command word itself (R196, section 11.3.4) are read by the ticket block, in Machine/Commands.lean. -/

namespace Sys2Proof

/-- The command spelled by a word of `nbits` bits by the table's bits: none, for the table gives none. -/
def decodeTableWord (_nbits _w : Nat) : Option Instr := none

end Sys2Proof
end

