-- ==== Sys2Proof/Config.lean ====
section
/-! DEFINITION. Config.lean: what the part fixes (capacities and limits the rules name) and the one free
value of the model, the order of simultaneous raises and claims. -/

namespace Sys2Proof.Config

/-- Requests the number store's queue holds (R133). -/
def requestCapacity : Nat := 40

/-- Sets the remake list holds (R98). -/
def remakeCapacity : Nat := 32

/-- Rows of the book table (R132). -/
def bookCapacity : Nat := 32

/-- The disposition queue level that holds the job back (R175). -/
def highWaterLevel : Nat := 48

/-- Slots of a sector (R128). -/
def sectorSlots : Nat := 256

/-- Free slots at or below which the ACTIVE sector needs compaction (R138). -/
def compactionFloor : Nat := 32

/-- The last sequence the store can give, H'FFFFFFFE (R130). -/
def lastSequence : Word := 0xFFFFFFFE

/-- FREE VALUE (log 6): which of several simultaneous raises, claims or releases is taken first. R122
and R179 say "in either order". It has no body: nothing can be proved of its value. It is read only where
two or more stand at the same moment. -/
opaque freePick : Nat → Nat

end Sys2Proof.Config
end

