-- ==== Sys2Proof/Machine/State.lean ====
section
/-! DEFINITION. Machine/State.lean: everything the spec gives the part to hold, block by block (section 0.2),
the outcomes of a step, and the state after power-on reset. -/

namespace Sys2Proof.Machine

/-- The behaviours that stop the block: none. The spec calls nothing undefined, so nothing raises a fault of
the machine; the part's own faults (R178) are state (`FaultKind`). Safe. -/
inductive Fault where
deriving DecidableEq, Repr

/-- The reasons the model has no meaning for a command. -/
inductive Refusal where
  /-- Raised by a command that has no meaning in the model yet. Safe. No command is refused so. -/
  | notModelled (mnemonic : String)
deriving DecidableEq, Repr

/-! ## Named values (R194) -/

/-- R115. -/
inductive JobState where
  | idle | ready | run | hold | drain | halted | closing
deriving DecidableEq, Repr

/-- Section 5.5. -/
inductive Policy where
  | void | remake | proof
deriving DecidableEq, Repr

/-- R111, R112. -/
inductive PitchSource where
  | count | cue
deriving DecidableEq, Repr

/-- R71. -/
inductive TallyRate where
  | b9600 | b19200 | b38400 | b57600 | b115200
deriving DecidableEq, Repr

/-- R1. -/
inductive StreamMode where
  | perSet | everyK | fixed
deriving DecidableEq, Repr

/-- R1, R10 to R12. -/
inductive CheckMethod where
  | none | mod10w | mod11 | mod7
deriving DecidableEq, Repr

/-- R2. -/
inductive StreamStatus where
  | inactive | live | exhausted
deriving DecidableEq, Repr

/-- R25. -/
inductive ImageState where
  | none | imaged | missed
deriving DecidableEq, Repr

/-- R25. -/
inductive TallyState where
  | none | matched | mismatch | noread | missing
deriving DecidableEq, Repr

/-- The action of a fault (R122). -/
inductive FaultAction where
  | carryOn | hold | halt
deriving DecidableEq, Repr

/-- The 17 kinds, numbered as R194 numbers them. -/
inductive FaultKind where
  | splice | webBreak | jam | cueLost | imageMissed | fieldBroken | tokenBad | bindTimeout | tallyMismatch
  | tallyNoread | tallyMissing | tallyDuplicate | remakeFull | remakeLimit | operatorSpoil | powerWarn | storeFault
deriving DecidableEq, Repr

/-- The fourteen causes (R27, R171), numbered as R194 numbers them. -/
inductive Cause where
  | splice | imageMissed | fieldBroken | tokenBad | tallyMismatch | tallyNoread | tallyMissing | tallyDuplicate
  | halt | operator | remakeLimit | remakeFull | abort | closeUnmade
deriving DecidableEq, Repr

/-- R164; `none` is the value 0 before any command is taken. -/
inductive ResultCode where
  | none | done | pending | busy | state | ticketCheck | ticketRange | noPly | bookOverlap | bookDirection
  | bookShared | bookTableFull | storeUnavailable | linesActive | queueHigh | exhausted | notFound | tooLate
  | serviceOff | unknown
deriving DecidableEq, Repr

/-- R129: UP for a stream with positive step, DOWN for one with negative step. -/
inductive Direction where
  | up | down
deriving DecidableEq, Repr

/-- A set of causes: cause n at bit n (R194). -/
abbrev CauseSet := BitVec 14

/-- A set of plies: ply k at bit k − 1 (R194). -/
abbrev PlyMask := BitVec 6

/-- A set of fault kinds: kind n at bit n (R194). -/
abbrev FaultMask := BitVec 17

/-- One value for each stream active in the job (R25). -/
abbrev Values := Four (Option Word)

/-! ## The active ticket (R153, R154, R1) -/

/-- The settings of one input (R104); `inverted` is falling edge or active-low. -/
structure LineSetting where
  enabled : Bool
  inverted : Bool
  debounce : Nat
deriving DecidableEq, Repr

/-- A stream descriptor (R1). -/
structure StreamDesc where
  active : Bool
  mode : StreamMode
  check : CheckMethod
  step : Int
  k : Nat
  book : Word
  first : Word
  last : Word
  skips : List (Word × Word)
deriving DecidableEq, Repr

/-- A ply descriptor (R154). -/
structure PlyDesc where
  enabled : Bool
  tally : Bool
  tallyCheck : Bool
  tallyStream : StreamId
  head : Nat
  fields : Nat
  zone : Nat
deriving DecidableEq, Repr

/-- The active ticket (R160): the 128 words copied, and the fields the blocks take from them (R153). -/
structure Ticket where
  words : List Word
  jobId : Word
  policy : Policy
  source : PitchSource
  rate : TallyRate
  gateDelay : Nat
  attention : Nat
  bindLimit : Byte
  formLength : Nat
  deadline : Nat
  actions : BitVec 28
  faultLine : FaultMask
  attnMask : FaultMask
  lines : List LineSetting
  streams : Four StreamDesc
  plies : Six PlyDesc
deriving DecidableEq, Repr

/-! ## Path unit -/

/-- A continuation record that is not empty (R63): words remaining is the length of the string. -/
structure Continuation where
  glyphs : List (BitVec 16)
  next : Addr
  serial : Word
  attempt : BitVec 2
deriving DecidableEq, Repr

/-- What the path unit holds for one head feeder (R49, R55, R63, R67). -/
structure Feeder where
  cont : Option Continuation
  queue : List Response
  held : Bool
  timer : Option Byte
  slotReads : Byte
  strays : Byte
deriving DecidableEq, Repr

structure Path where
  wbase : Byte
  feeders : Six Feeder
deriving DecidableEq, Repr

/-- A requester of the form bus, 0 to 7 (section 3.1). -/
abbrev Requester := Fin 8

/-- What the two faces carried in the last command taken: responses sent upstream and accesses passed
downstream, oldest first (log 11). -/
structure Bus where
  upstream : List (Requester × Response)
  downstream : List (Requester × Access)
deriving DecidableEq, Repr

/-! ## Ticket block -/

/-- The result word and the argument echo (R164). -/
structure ResultWord where
  code : Byte
  tag : Byte
  result : ResultCode
  check : BitVec 3
  detail : Word
  echo1 : Word
  echo2 : Word
deriving DecidableEq, Repr

/-- The two pending commands (R165). -/
inductive PendingKind where
  | close | retire
deriving DecidableEq, Repr

/-- The pending record (R165), and for CLOSE the lowest stream whose close append has failed (R189). -/
structure PendingCommand where
  kind : PendingKind
  tag : Byte
  echo1 : Word
  echo2 : Word
  failed : Option StreamId
deriving DecidableEq, Repr

structure TicketBlock where
  staged : List Word
  arg1 : Word
  arg2 : Word
  active : Option Ticket
  result : ResultWord
  waiting : Option PendingCommand
  partials : Byte
deriving DecidableEq, Repr

/-! ## Stream unit -/

/-- The state record of a stream (R2, R8). -/
structure StreamState where
  status : StreamStatus
  v : Word
  u : BitVec 16
  limit : Option Word
  inFlight : Bool
  requested : Word
  drawn : Bool
  firstDrawn : Word
  lastDrawn : Word
  valuesDrawn : Word
deriving DecidableEq, Repr

structure StreamUnit where
  each : Four StreamState
  generator : BitVec 24
deriving DecidableEq, Repr

/-! ## Set pipeline -/

/-- A SET entry (R25). -/
structure SetEntry where
  serial : Word
  attempt : BitVec 2
  values : Values
  stamp : Word
  image : Six ImageState
  fields : Six (BitVec 4)
  tally : Six TallyState
  causes : CauseSet
  plies : PlyMask
deriving DecidableEq, Repr

/-- The three kinds of entry (R24, R26). -/
inductive Entry where
  | blank
  | pending (stamp : Word) (causes : CauseSet) (plies : PlyMask)
  | set (e : SetEntry)
deriving DecidableEq, Repr

/-- The entries, position 0 first, and the counts of R30. -/
structure Pipeline where
  entries : List Entry
  pitchCount : Word
  opened : Word
  reserveWait : Word
deriving DecidableEq, Repr

/-! ## Tally unit -/

/-- R72. -/
inductive LineCondition where
  | off | hunt | ready
deriving DecidableEq, Repr

/-- R72: the digits in order of arrival. -/
inductive Assembly where
  | empty
  | digits (ds : List (Fin 10))
  | query
  | discard
deriving DecidableEq, Repr

/-- A receiver with its assembly and its ply's counts (R72, R75). -/
structure Receiver where
  line : LineCondition
  assembly : Assembly
  reports : Byte
  malformed : Byte
  ignored : Byte
deriving DecidableEq, Repr

/-! ## Spoilage and remake unit -/

/-- An entry of the remake list (R98). -/
structure RemakeEntry where
  serial : Word
  attempt : BitVec 2
  values : Values
  causes : CauseSet
  plies : PlyMask
deriving DecidableEq, Repr

/-- The splice-zone counters, the remake list, the decision counts and GATE (true: active, divert). -/
structure SpoilUnit where
  zones : Six Nat
  remakes : List RemakeEntry
  good : Word
  void : Word
  remade : Word
  blank : Word
  gate : Bool
deriving DecidableEq, Repr

/-! ## Line monitor and pitch timer -/

/-- The line monitor (R105, R106, R109). `raised` holds the inputs whose accepted edges have not been taken
yet, oldest first (log 4). -/
structure LineMonitor where
  accepted : BitVec 18
  runs : List (BitVec 2)
  sampled : Bool
  raised : List (Fin 18)
  holdreq : Bool
  pwrwarn : Bool
  glitches : Word
deriving DecidableEq, Repr

/-- The pitch timer (R110 to R114). -/
structure PitchTimer where
  encoder : Word
  deadlineMade : Bool
  earlyCues : Word
  makeReady : Word
deriving DecidableEq, Repr

/-! ## Job control -/

/-- The halt snapshot (R125). -/
structure Snapshot where
  valid : Bool
  stamp : Word
  prev : JobState
  kind : Option FaultKind
  ply : BitVec 3
  serial : Word
  serials : Six Word
  images : Six ImageState
  serialC : Word
  serialG : Word
deriving DecidableEq, Repr

/-- A claim on the job state (R122, R123, R38, R121). -/
inductive Claim where
  | action (kind : FaultKind) (ply : BitVec 3) (serial : Word) (act : FaultAction)
  | exhausted
  | drained
  | queueHigh
deriving DecidableEq, Repr

/-- Job control. The claims of a pitch operation wait in `claims` until it has ended (R31). -/
structure JobControl where
  job : JobState
  command : Bool
  fault : Bool
  snapshot : Snapshot
  inOperation : Bool
  claims : List Claim
deriving DecidableEq, Repr

/-! ## Number store -/

/-- What an entry holds beside its sequence and its check (R129). -/
inductive EntryBody where
  | header (generation : Word)
  | reserve (book : Word) (dir : Direction) (value : Word) (empty : Bool) (prior : Option Word)
  | close (book : Word) (dir : Direction) (value : Word) (empty : Bool)
  | retire (book : Word)
  | copy (book : Word) (dir : Direction) (high : Word) (opened : Bool) (empty : Bool) (prior : Option Word)
deriving DecidableEq, Repr

/-- A programmed slot: its sequence, its fields, and whether its entry check passes (R130, log 9). -/
structure Slot where
  seq : Word
  body : EntryBody
  sound : Bool
deriving DecidableEq, Repr

/-- A sector: its programmed slots by number, strictly rising; every slot not listed is erased (R128). -/
abbrev Sector := List (Nat × Slot)

/-- R131. -/
inductive SectorState where
  | erased | active | full | erasing | bad
deriving DecidableEq, Repr

/-- A row of the book table (R132). -/
structure BookRow where
  book : Word
  dir : Direction
  high : Word
  opened : Bool
  empty : Bool
  prior : Option Word
deriving DecidableEq, Repr

/-- A request of the store's queue (R133). -/
inductive Request where
  | reservation (s : StreamId) (book : Word) (dir : Direction) (limit : Word)
  | closeAppend (s : StreamId) (book : Word) (dir : Direction) (drawn : Option Word)
  | recoveryClose (book : Word)
  | retire (book : Word)
deriving DecidableEq, Repr

/-- The operation in flight (R134): a programming for the head append or for a compaction step, with its sector,
slot, sequence and fields, or an erase. -/
inductive Operation where
  | append (sector : SectorId) (slot : Nat) (seq : Word) (body : EntryBody)
  | step (sector : SectorId) (slot : Nat) (seq : Word) (body : EntryBody)
  | erase (sector : SectorId)
deriving DecidableEq, Repr

/-- A compaction in progress (R138): its target, the rows not yet copied, and whether the present copy has
failed its verify once (R139). -/
structure Compaction where
  target : SectorId
  todo : List BookRow
  retried : Bool
deriving DecidableEq, Repr

/-- R141. -/
inductive FailCause where
  | sectors | worn
deriving DecidableEq, Repr

/-- R140, without QUIESCED, which stands over RECOVERING or IN_SERVICE. -/
inductive StorePhase where
  | recovering
  | inService
  | failed (cause : FailCause)
deriving DecidableEq, Repr

/-- The number store. The book table is kept in ascending order of book id. `retried`, `fullWait` and `scanMade` are the
model's own: the head append's verify has failed once, the wait of R137 has been found, the scan since the last reset has
been made (logs 14 and 17). -/
structure Store where
  array : Four Sector
  sectors : Four SectorState
  table : List BookRow
  queue : List Request
  retried : Bool
  op : Option Operation
  compaction : Option Compaction
  lastSeq : Word
  phase : StorePhase
  quiesced : Bool
  fullWait : Bool
  scanMade : Bool
deriving DecidableEq, Repr

/-! ## Report block -/

/-- The kinds of record that account for a set (R171). -/
inductive SetKind where
  | good | void | remake | proofGood | proofVoid
deriving DecidableEq, Repr

/-- A disposition record (R171, R188). -/
inductive Record where
  | ofSet (kind : SetKind) (serial : Word) (attempt : BitVec 2) (stamp : Word) (causes : CauseSet)
      (plies : PlyMask) (values : Values)
  | recovery (book high : Word)
  | stream (s : StreamId) (stamp first last drawn good void remade : Word)
  | job (stamp opened good void blank reserveWait : Word)
deriving DecidableEq, Repr

/-- A fault history entry (R181). -/
structure HistoryEntry where
  kind : FaultKind
  ply : BitVec 3
  serial : Word
  stamp : Word
deriving DecidableEq, Repr

structure Report where
  queue : List Record
  flags : FaultMask
  slots : List (Option HistoryEntry)
  head : BitVec 4
  total : BitVec 16
deriving DecidableEq, Repr

/-! ## The machine -/

/-- The whole part. `resetting`: the RESET line is held (R51; log 17).
`freeCount` is the model's own counter behind the free order (log 6). `pending` is the queue of commands. -/
structure State where
  path : Path
  bus : Bus
  ticket : TicketBlock
  streams : StreamUnit
  pipe : Pipeline
  tally : Six Receiver
  spoil : SpoilUnit
  lines : LineMonitor
  timer : PitchTimer
  ctl : JobControl
  store : Store
  report : Report
  resetting : Bool
  freeCount : Nat
  pending : List Instr
deriving DecidableEq, Repr

/-! ## Reset values -/

/-- R66, R70, R55. -/
def Feeder.cleared : Feeder :=
  { cont := none, queue := [], held := false, timer := none, slotReads := 0, strays := 0 }

/-- R164. -/
def ResultWord.cleared : ResultWord :=
  { code := 0, tag := 0, result := .none, check := 0, detail := 0, echo1 := 0, echo2 := 0 }

/-- R169. -/
def TicketBlock.cleared : TicketBlock :=
  { staged := List.replicate 128 0, arg1 := 0, arg2 := 0, active := none, result := .cleared, waiting := none,
    partials := 0 }

/-- R2. -/
def StreamState.cleared : StreamState :=
  { status := .inactive, v := 0, u := 0, limit := none, inFlight := false, requested := 0, drawn := false,
    firstDrawn := 0, lastDrawn := 0, valuesDrawn := 0 }

/-- R2, R20. -/
def StreamUnit.cleared : StreamUnit := { each := .const .cleared, generator := 0 }

/-- R45. -/
def Pipeline.cleared : Pipeline := { entries := [], pitchCount := 0, opened := 0, reserveWait := 0 }

/-- R85. -/
def Receiver.cleared : Receiver := { line := .off, assembly := .empty, reports := 0, malformed := 0, ignored := 0 }

/-- R86, R94, R96, R98. -/
def SpoilUnit.cleared : SpoilUnit :=
  { zones := .const 0, remakes := [], good := 0, void := 0, remade := 0, blank := 0, gate := true }

/-- R105, R109. -/
def LineMonitor.cleared : LineMonitor :=
  { accepted := 0, runs := List.replicate 18 0, sampled := false, raised := [], holdreq := false, pwrwarn := false,
    glitches := 0 }

/-- R110, R112, R114. -/
def PitchTimer.cleared : PitchTimer := { encoder := 0, deadlineMade := false, earlyCues := 0, makeReady := 0 }

/-- R125. -/
def Snapshot.cleared : Snapshot :=
  { valid := false, stamp := 0, prev := .idle, kind := none, ply := 0, serial := 0, serials := .const 0,
    images := .const .none, serialC := 0, serialG := 0 }

/-- R115, R121, R127. -/
def JobControl.cleared : JobControl :=
  { job := .idle, command := false, fault := false, snapshot := .cleared, inOperation := false, claims := [] }

/-- R140, R149: the array stays; everything else is discarded. -/
def Store.afterReset (array : Four Sector) : Store :=
  { array, sectors := .const .erased, table := [], queue := [], retried := false, op := none, compaction := none,
    lastSeq := 0, phase := .recovering, quiesced := false, fullWait := false, scanMade := false }

/-- R185 after power-on reset. -/
def Report.cleared : Report :=
  { queue := [], flags := 0, slots := List.replicate 16 none, head := 0, total := 0 }

/-- The machine right after power-on reset, the RESET line released and the scan (R142) not made yet, on a part whose
array has never been written and whose WBASE straps read 0 (logs 1 and 17). -/
def State.reset : State :=
  { path := { wbase := 0, feeders := .const .cleared }
    bus := { upstream := [], downstream := [] }
    ticket := .cleared
    streams := .cleared
    pipe := .cleared
    tally := .const .cleared
    spoil := .cleared
    lines := .cleared
    timer := .cleared
    ctl := .cleared
    store := .afterReset (.const [])
    report := .cleared
    resetting := false
    freeCount := 0
    pending := [] }

end Sys2Proof.Machine
end

