-- ==== Sys2Proof/Machine/Operands.lean ====
section
/-! DEFINITION. Machine/Operands.lean: how the words and addresses of the form bus are read: the watch window,
byte enables, the fields of the ticket words (R196), of the field token (R195), and the codes of R194. -/

namespace Sys2Proof.Machine

/-! ## Bit fields -/

/-- Bits `hi` to `lo` of a word, as a number. -/
def field (w : Word) (hi lo : Nat) : Nat := (w.toNat / 2 ^ lo) % 2 ^ (hi + 1 - lo)

/-- Bit `n` of a word. -/
def flag (w : Word) (n : Nat) : Bool := w.getLsbD n

/-- A word with byte i taken from `new` where enable i is set, and from `old` where it is clear (R151). -/
def mergeBytes (old : Word) (w : WordWrite) : Word :=
  let m : Word :=
    (if w.enables.getLsbD 0 then 0x000000FF else 0) ||| (if w.enables.getLsbD 1 then 0x0000FF00 else 0) |||
    (if w.enables.getLsbD 2 then 0x00FF0000 else 0) ||| (if w.enables.getLsbD 3 then 0xFF000000 else 0)
  (old &&& ~~~m) ||| (w.data &&& m)

/-! ## The watch window (R52, R53) -/

/-- The address of word i of a burst: the access address plus 4×i, taken to 28 bits (R48). -/
def wordAddr (a : Addr) (i : Nat) : Addr := a + BitVec.ofNat 28 (4 * i)

/-- The base of the window, WBASE × H'100000 (R52). -/
def windowBase (wbase : Byte) : Addr := BitVec.ofNat 28 (wbase.toNat * 0x100000)

/-- The offset of an address in the window, or none outside it (R52). -/
def windowOffset (wbase : Byte) (a : Addr) : Option Nat :=
  if a.toNat / 0x100000 = wbase.toNat then some (a.toNat % 0x100000) else none

/-- The regions of the window (R53). -/
inductive Region where
  | ticketArea (off : Nat)
  | reportArea (off : Nat)
  | slot (k : Ply) (off : Nat)
  | outside
deriving DecidableEq, Repr

/-- The first offset of image slot k, H'10000 + (k − 1)×H'28000 (R53). -/
def slotBase (k : Ply) : Nat := 0x10000 + k.val * 0x28000

/-- The offset just past image slot k (R53). -/
def slotEnd (k : Ply) : Nat := slotBase k + 0x28000

/-- The image slot an offset lies in (R53). -/
def slotOf (off : Nat) : Option Ply := plies.find? fun k => decide (slotBase k ≤ off ∧ off < slotEnd k)

/-- The region of an address (R53). `off` counts from the window base. -/
def regionOf (wbase : Byte) (a : Addr) : Region :=
  match windowOffset wbase a with
  | none => .outside
  | some off =>
    if off < 0x8000 then .ticketArea off
    else if off < 0x10000 then .reportArea off
    else match slotOf off with
      | some k => .slot k off
      | none => .outside

/-- Whether an address lies in image slot k (R53). -/
def inSlot (wbase : Byte) (k : Ply) (a : Addr) : Bool :=
  match regionOf wbase a with
  | .slot j _ => j == k
  | _ => false

/-- Whether an address lies in the window outside image slot k (R55). -/
def straysFrom (wbase : Byte) (k : Ply) (a : Addr) : Bool :=
  match regionOf wbase a with
  | .outside => false
  | .slot j _ => j != k
  | _ => true

/-- How many words an access has (section 3.1). -/
def Access.count (a : Access) : Nat :=
  match a.body with
  | .read n => n
  | .write ws => ws.length

/-- The word addresses of an access. -/
def Access.addrs (a : Access) : List Addr := (List.range (Access.count a)).map (wordAddr a.addr)

/-! ## Words the ticket block takes (R150) -/

/-- What a press-controller write word is to the ticket block, by its offset (R150). -/
inductive TicketPlace where
  | staged (i : Nat)
  | command
  | arg1
  | arg2
  | notTaken
deriving DecidableEq, Repr

/-- R150: ticket words H'000 to H'1FF, command H'400, arguments H'404 and H'408. -/
def ticketPlace (wbase : Byte) (a : Addr) : TicketPlace :=
  match regionOf wbase a with
  | .ticketArea off =>
    if off < 0x200 then .staged (off / 4)
    else if off = 0x400 then .command
    else if off = 0x404 then .arg1
    else if off = 0x408 then .arg2
    else .notTaken
  | _ => .notTaken

/-! ## Codes of named values (R194) -/

def JobState.code : JobState → Nat
  | .idle => 0 | .ready => 1 | .run => 2 | .hold => 3 | .drain => 4 | .halted => 5 | .closing => 6

def Policy.code : Policy → Nat
  | .void => 1 | .remake => 2 | .proof => 3

def StreamStatus.code : StreamStatus → Nat
  | .inactive => 0 | .live => 1 | .exhausted => 2

def ImageState.code : ImageState → Nat
  | .none => 0 | .imaged => 1 | .missed => 2

def ResultCode.code : ResultCode → Nat
  | .none => 0 | .done => 1 | .pending => 2 | .busy => 3 | .state => 4 | .ticketCheck => 5 | .ticketRange => 6
  | .noPly => 7 | .bookOverlap => 8 | .bookDirection => 9 | .bookShared => 10 | .bookTableFull => 11
  | .storeUnavailable => 12 | .linesActive => 13 | .queueHigh => 14 | .exhausted => 15 | .notFound => 16
  | .tooLate => 17 | .serviceOff => 18 | .unknown => 19

def SectorState.code : SectorState → Nat
  | .erased => 0 | .active => 1 | .full => 2 | .erasing => 3 | .bad => 4

/-- The number of a fault kind (R194). -/
def FaultKind.num : FaultKind → Nat
  | .splice => 0 | .webBreak => 1 | .jam => 2 | .cueLost => 3 | .imageMissed => 4 | .fieldBroken => 5
  | .tokenBad => 6 | .bindTimeout => 7 | .tallyMismatch => 8 | .tallyNoread => 9 | .tallyMissing => 10
  | .tallyDuplicate => 11 | .remakeFull => 12 | .remakeLimit => 13 | .operatorSpoil => 14 | .powerWarn => 15
  | .storeFault => 16

/-- The kind's place in a fault mask: bit n for kind n (R194). -/
def FaultKind.bit (k : FaultKind) : FaultMask := BitVec.twoPow 17 k.num

/-- The number of a cause (R194). -/
def Cause.num : Cause → Nat
  | .splice => 0 | .imageMissed => 1 | .fieldBroken => 2 | .tokenBad => 3 | .tallyMismatch => 4
  | .tallyNoread => 5 | .tallyMissing => 6 | .tallyDuplicate => 7 | .halt => 8 | .operator => 9
  | .remakeLimit => 10 | .remakeFull => 11 | .abort => 12 | .closeUnmade => 13

/-- The cause's place in a cause set (R194). -/
def Cause.bit (c : Cause) : CauseSet := BitVec.twoPow 14 c.num

/-- Ply k's place in a ply mask: bit k − 1 (R194). -/
def plyBit (k : Ply) : PlyMask := BitVec.twoPow 6 k.val

/-- The number of ply k, 1 to 6. -/
def plyNumber (k : Ply) : BitVec 3 := BitVec.ofNat 3 (k.val + 1)

/-- The command code of a pending command (R194). -/
def PendingKind.code : PendingKind → Byte
  | .close => 7
  | .retire => 9

/-! ## Fields of the ticket words (R196, sections 11.3.1 to 11.3.3) -/

/-- Word i of the staged ticket, at offset 4×i. -/
def stagedWord (ws : List Word) (i : Nat) : Word := ws.getD i 0

/-- A 2-bit entry of the fault action table: 0 DEFAULT (R194). -/
def actionCode (actions : BitVec 28) (j : Nat) : Option FaultAction :=
  match (actions.toNat / 2 ^ (2 * j)) % 4 with
  | 1 => some .carryOn
  | 2 => some .hold
  | 3 => some .halt
  | _ => none

/-- The index of a configurable kind in the fault action table (section 11.3.1); none for the three kinds whose
action is fixed. -/
def FaultKind.actionIndex : FaultKind → Option Nat
  | .splice => some 0 | .cueLost => some 1 | .imageMissed => some 2 | .fieldBroken => some 3 | .tokenBad => some 4
  | .bindTimeout => some 5 | .tallyMismatch => some 6 | .tallyNoread => some 7 | .tallyMissing => some 8
  | .tallyDuplicate => some 9 | .remakeFull => some 10 | .remakeLimit => some 11 | .operatorSpoil => some 12
  | .powerWarn => some 13
  | .webBreak => none | .jam => none | .storeFault => none

/-- Policy code (R194); codes out of range are refused by R157 and read as VOID here (log 18). -/
def policyOfCode : Nat → Policy
  | 2 => .remake
  | 3 => .proof
  | _ => .void

def rateOfCode : Nat → TallyRate
  | 1 => .b19200
  | 2 => .b38400
  | 3 => .b57600
  | 4 => .b115200
  | _ => .b9600

def modeOfCode : Nat → StreamMode
  | 1 => .everyK
  | 2 => .fixed
  | _ => .perSet

def methodOfCode : Nat → CheckMethod
  | 1 => .mod10w
  | 2 => .mod11
  | 3 => .mod7
  | _ => .none

/-- The 5-bit step, two's complement (section 11.3.2). -/
def stepOf (n : Nat) : Int := (BitVec.ofNat 5 n).toInt

/-- The line settings of input n (section 11.3.1). -/
def lineSettingOf (ws : List Word) (n : Nat) : LineSetting :=
  let w := stagedWord ws (6 + n / 8)
  let m := 4 * (n % 8)
  { enabled := flag w m, inverted := flag w (m + 1), debounce := field w (m + 3) (m + 2) }

/-- Stream descriptor s, at H'040 + s×H'40 (section 11.3.2). -/
def streamDescOf (ws : List Word) (s : StreamId) : StreamDesc :=
  let b := 16 + 16 * s.val
  let w0 := stagedWord ws b
  { active := flag w0 0
    mode := modeOfCode (field w0 5 4)
    check := methodOfCode (field w0 9 8)
    step := stepOf (field w0 20 16)
    k := field (stagedWord ws (b + 1)) 15 0
    book := stagedWord ws (b + 2)
    first := stagedWord ws (b + 3)
    last := stagedWord ws (b + 4)
    skips := [(stagedWord ws (b + 5), stagedWord ws (b + 6)), (stagedWord ws (b + 7), stagedWord ws (b + 8)),
      (stagedWord ws (b + 9), stagedWord ws (b + 10)), (stagedWord ws (b + 11), stagedWord ws (b + 12))] }

/-- Ply descriptor k, at H'140 + (k − 1)×H'20 (section 11.3.3). -/
def plyDescOf (ws : List Word) (k : Ply) : PlyDesc :=
  let w := stagedWord ws (80 + 8 * k.val)
  { enabled := flag w 0
    tally := flag w 1
    tallyCheck := flag w 2
    tallyStream := Fin.ofNat 4 (field w 5 4)
    head := field w 13 8
    fields := field w 19 16
    zone := field w 26 24 }

/-- The ticket the 128 words describe (R153, R154, R196). -/
def ticketOf (ws : List Word) : Ticket :=
  let w1 := stagedWord ws 1
  let w2 := stagedWord ws 2
  { words := ws
    jobId := stagedWord ws 0
    policy := policyOfCode (field w1 1 0)
    source := if field w1 3 2 = 1 then .cue else .count
    rate := rateOfCode (field w1 6 4)
    gateDelay := field w1 11 8
    attention := field w1 17 12
    bindLimit := BitVec.ofNat 8 (field w1 31 24)
    formLength := field w2 15 0
    deadline := field w2 31 16
    actions := (stagedWord ws 3).setWidth 28
    faultLine := (stagedWord ws 4).setWidth 17
    attnMask := (stagedWord ws 5).setWidth 17
    lines := (List.range 18).map (lineSettingOf ws)
    streams := ⟨streamDescOf ws 0, streamDescOf ws 1, streamDescOf ws 2, streamDescOf ws 3⟩
    plies := ⟨plyDescOf ws 0, plyDescOf ws 1, plyDescOf ws 2, plyDescOf ws 3, plyDescOf ws 4, plyDescOf ws 5⟩ }

/-! ## The job's geometry (R23) -/

namespace Ticket

/-- The head distances of the enabled plies (R23). -/
def heads (t : Ticket) : List Nat := (t.plies.toList.filter (·.enabled)).map (·.head)

/-- C, the collator position: the largest H_k over the enabled plies (R23). -/
def collator (t : Ticket) : Nat := (heads t).foldl max 0

/-- P_k, the head position of ply k: C − H_k (R23). -/
def headPos (t : Ticket) (k : Ply) : Nat := collator t - (t.plies.get k).head

/-- G, the gate distance: C + gate delay (R23). -/
def gateDist (t : Ticket) : Nat := collator t + t.gateDelay

/-- The active streams, S0 first (R1). -/
def activeStreams (t : Ticket) : List StreamId := fours.filter fun i => (t.streams.get i).active

/-- Whether stream s is booked (R13): active, a book id that is not 0, and not PROOF policy. -/
def booked (t : Ticket) (s : StreamId) : Bool :=
  (t.streams.get s).active && (t.streams.get s).book != 0 && t.policy != .proof

end Ticket

/-- The direction of a stream: upward when its step is positive (R1). -/
def StreamDesc.dir (d : StreamDesc) : Direction := if 0 < d.step then .up else .down

/-- "Beyond" y in a direction: further in that direction (section 0.5). -/
def beyond (dir : Direction) (x y : Word) : Bool :=
  match dir with
  | .up => decide (y.toNat < x.toNat)
  | .down => decide (x.toNat < y.toNat)

/-! ## The field token (R56, R195) -/

structure Token where
  stream : StreamId
  width : Nat
  spaces : Bool
  check : Bool
  base : Nat
deriving DecidableEq, Repr

/-- The marker H'A7 in the top byte (R56). -/
def isMarked (w : Word) : Bool := field w 31 24 == 0xA7

/-- The fields of a token (R195). -/
def tokenOf (w : Word) : Token :=
  { stream := Fin.ofNat 4 (field w 23 22), width := field w 21 18, spaces := flag w 17, check := flag w 16,
    base := field w 15 0 }

/-- The span of a token: W words, plus one for the check digit (R56). -/
def Token.span (t : Token) : Nat := t.width + (if t.check then 1 else 0)

/-- A well-formed token at offset `off` of image slot k (R56). -/
def Token.wellFormed (t : Token) (k : Ply) (off : Nat) : Bool :=
  decide (1 ≤ t.width ∧ t.width ≤ 10 ∧ t.base ≤ 0xFFF4 ∧ off + 4 * (t.span - 1) < slotEnd k)

end Sys2Proof.Machine
end

