-- ==== Sys2Proof/Machine/Flags.lean ====
section
/-! DEFINITION. Machine/Flags.lean: the values the part computes from others: check digits (R9 to R12), the line
settings and levels in force (R104, R106), hold causes (R121), the outputs (R124, R182, R183) and the action in force
of a fault (R178, R179). -/

namespace Sys2Proof.Machine

/-! ## Check digits (R9 to R12) -/

/-- The decimal digits of n from the rightmost, at most `fuel` of them, none for 0 left over. -/
def digitsFrom : Nat → Nat → List Nat
  | 0, _ => []
  | fuel + 1, n => if n < 10 then [n] else n % 10 :: digitsFrom fuel (n / 10)

/-- The digit string of a value from position 1, the rightmost (R9): 1 to 10 digits. -/
def digits (v : Word) : List Nat := digitsFrom 10 v.toNat

/-- The weighted sum of digits from position 1, the weights taken in turn and repeated (R9). -/
def weighted (weights : List Nat) (ds : List Nat) : Nat :=
  ((List.range ds.length).map fun i => ds.getD i 0 * weights.getD (i % weights.length) 0).sum

/-- The check result of a value under a method (R10 to R12); none for NONE. -/
def checkResult (m : CheckMethod) (v : Word) : Option Nat :=
  match m with
  | .none => none
  | .mod10w => some ((10 - weighted [3, 1] (digits v) % 10) % 10)
  | .mod11 => some ((11 - weighted [2, 3, 4, 5, 6, 7] (digits v) % 11) % 11)
  | .mod7 => some (v.toNat % 7)

/-- No value is passed over but for a MOD11 result of 10 (R11). -/
def checkPasses (m : CheckMethod) (v : Word) : Bool := m != .mod11 || checkResult m v != some 10

/-! ## Line settings and levels (R104, R106) -/

def inEnc : Fin 18 := 0
def inCue : Fin 18 := 1
def inSplice (k : Ply) : Fin 18 := ⟨2 + k.val, by omega⟩
def inBreak (k : Ply) : Fin 18 := ⟨8 + k.val, by omega⟩
def inJam : Fin 18 := 14
def inHoldreq : Fin 18 := 15
def inKeysvc : Fin 18 := 16
def inPwrwarn : Fin 18 := 17

/-- The default settings: enabled, rising edge or active-high, n = 1 (R104). -/
def defaultSetting : LineSetting := { enabled := true, inverted := false, debounce := 1 }

/-- KEYSVC is always enabled, active-high, with n = 3 (R104). -/
def keySetting : LineSetting := { enabled := true, inverted := false, debounce := 3 }

/-- The settings of input n under an active ticket, or with none (R104). -/
def settingUnder (t : Option Ticket) (n : Fin 18) : LineSetting :=
  if n = inKeysvc then keySetting
  else match t with
    | none => defaultSetting
    | some t => t.lines.getD n.val defaultSetting

/-- The settings of input n in force. -/
def setting (s : State) (n : Fin 18) : LineSetting := settingUnder s.ticket.active n

/-- The accepted level of input n (R105): true for high. -/
def level (s : State) (n : Fin 18) : Bool := s.lines.accepted.getLsbD n.val

/-- An input is active when it is enabled and its accepted level is its active level (R106). -/
def inputActive (s : State) (n : Fin 18) : Bool :=
  (setting s n).enabled && (level s n != (setting s n).inverted)

/-- BREAK1 to BREAK6 and JAM, in order of number (R116). -/
def haltInputs : List (Fin 18) := [8, 9, 10, 11, 12, 13, 14]

/-- The lowest-numbered active input of BREAK1 to BREAK6 and JAM (R116, R119). -/
def firstHaltInput (s : State) : Option (Fin 18) := haltInputs.find? (inputActive s)

/-! ## Hold causes and press outputs (R121, R124) -/

/-- The level of the disposition queue (R170). -/
def queueLevel (s : State) : Nat := s.report.queue.length

/-- The QUEUE hold cause (R121). -/
def queueCause (s : State) : Bool := decide (Config.highWaterLevel ≤ queueLevel s)

/-- Whether any hold cause is present (R121). -/
def holdCause (s : State) : Bool := s.ctl.command || s.ctl.fault || s.lines.holdreq || queueCause s

/-- The running states (R115). -/
def JobState.running : JobState → Bool
  | .run => true | .hold => true | .drain => true | .halted => true
  | .idle => false | .ready => false | .closing => false

/-- PRESSHOLD (R124). -/
def pressHold (s : State) : Bool :=
  match s.ctl.job with
  | .hold => true
  | .halted => true
  | .drain => s.lines.holdreq || queueCause s
  | _ => false

/-- ESTOP (R124). -/
def estop (s : State) : Bool := s.ctl.job == .halted

/-! ## FAULT and ATTN (R182 to R184) -/

/-- The fault line mask in force (R184). -/
def faultLineMask (s : State) : FaultMask := (s.ticket.active.map (·.faultLine)).getD (BitVec.allOnes 17)

/-- The attention mask in force (R184). -/
def attentionMask (s : State) : FaultMask := (s.ticket.active.map (·.attnMask)).getD (BitVec.allOnes 17)

/-- The attention threshold in force (R184). -/
def attentionThreshold (s : State) : Nat := (s.ticket.active.map (·.attention)).getD 1

/-- FAULT is active while a sticky flag the fault line mask names is set (R182). -/
def faultOut (s : State) : Bool := (s.report.flags &&& faultLineMask s) != 0

/-- ATTN is active at the threshold or while a sticky flag the attention mask names is set (R183). -/
def attnOut (s : State) : Bool :=
  decide (attentionThreshold s ≤ queueLevel s) || (s.report.flags &&& attentionMask s) != 0

/-! ## The action in force (R178, R179) -/

/-- The default action of a kind; HALT is fixed for WEB_BREAK, JAM and STORE_FAULT (R178). -/
def FaultKind.defaultAction : FaultKind → FaultAction
  | .splice => .carryOn | .webBreak => .halt | .jam => .halt | .cueLost => .hold | .imageMissed => .carryOn
  | .fieldBroken => .carryOn | .tokenBad => .hold | .bindTimeout => .carryOn | .tallyMismatch => .hold
  | .tallyNoread => .carryOn | .tallyMissing => .carryOn | .tallyDuplicate => .carryOn | .remakeFull => .carryOn
  | .remakeLimit => .carryOn | .operatorSpoil => .carryOn | .powerWarn => .halt | .storeFault => .halt

/-- The action in force of a kind (R179). -/
def actionInForce (s : State) (k : FaultKind) : FaultAction :=
  match s.ticket.active, k.actionIndex with
  | some t, some j => (actionCode t.actions j).getD k.defaultAction
  | _, _ => k.defaultAction

/-! ## The number store's state as software sees it (R140) -/

/-- The code of the store state: QUIESCED stands over RECOVERING and IN_SERVICE (R140, R194). -/
def storeStateCode (st : Store) : Nat :=
  match st.phase with
  | .failed _ => 3
  | .recovering => if st.quiesced then 2 else 0
  | .inService => if st.quiesced then 2 else 1

/-- Recovery has ended (R144): it ends in IN_SERVICE or in FAILED. -/
def recoveryEnded (st : Store) : Bool := st.phase != .recovering

end Sys2Proof.Machine
end

