-- ==== Sys2Proof/Machine/Ops.lean ====
section
/-! DEFINITION. Machine/Ops.lean: the operations the blocks share: marks on entries (R27, R28), leaving RUN (R40),
entering the job states (R121 to R123), raising a fault and applying its action (R179, R122), pushing a record
(R172), and the free order of simultaneous things (log 6). -/

namespace Sys2Proof.Machine

/-! ## One block changed, the others kept -/

namespace State

def setBus (s : State) (x : Bus) : State := { s with bus := x }
def setPath (s : State) (x : Path) : State := { s with path := x }
def setTicket (s : State) (x : TicketBlock) : State := { s with ticket := x }
def setStreams (s : State) (x : StreamUnit) : State := { s with streams := x }
def setPipe (s : State) (x : Pipeline) : State := { s with pipe := x }
def setTally (s : State) (x : Six Receiver) : State := { s with tally := x }
def setSpoil (s : State) (x : SpoilUnit) : State := { s with spoil := x }
def setLines (s : State) (x : LineMonitor) : State := { s with lines := x }
def setTimer (s : State) (x : PitchTimer) : State := { s with timer := x }
def setCtl (s : State) (x : JobControl) : State := { s with ctl := x }
def setStore (s : State) (x : Store) : State := { s with store := x }
def setReport (s : State) (x : Report) : State := { s with report := x }
def setFree (s : State) (x : Nat) : State := { s with freeCount := x }

/-- The job state. -/
def setJob (s : State) (j : JobState) : State := s.setCtl { s.ctl with job := j }

/-- The entries of the pipeline. -/
def setEntries (s : State) (es : List Entry) : State := s.setPipe { s.pipe with entries := es }

end State

/-! ## The free order (log 6) -/

/-- An order of the things of one moment, chosen by the free value from `c` on: every order can be chosen, and one
thing alone is itself. -/
def arrange {α : Type} (c : Nat) : List α → List α
  | [] => []
  | x :: xs =>
    match arrange (c + 1) xs with
    | [] => [x]
    | y :: ys => (y :: ys).insertIdx (Config.freePick c % (ys.length + 2)) x

/-- How far the free order's counter moves for n things: not at all where there is nothing to order. -/
def freeUse (n : Nat) : Nat := if n ≤ 1 then 0 else n

/-! ## Marks (R27, R28) -/

/-- A cause added to a SET entry, with its ply for a ply cause (R27). -/
def SetEntry.mark (e : SetEntry) (c : Cause) (k : Option Ply) : SetEntry :=
  { e with causes := e.causes ||| c.bit, plies := e.plies ||| (k.map plyBit).getD 0 }

/-- A mark by position on the entry there: applied to a SET entry, carried by a PENDING one, dropped on a BLANK one
(R28, R26). -/
def Entry.mark (c : Cause) (k : Option Ply) : Entry → Entry
  | .blank => .blank
  | .pending st cs ps => .pending st (cs ||| c.bit) (ps ||| (k.map plyBit).getD 0)
  | .set e => .set (e.mark c k)

/-- A mark addressed by position (R28). -/
def markAt (p : Nat) (c : Cause) (k : Option Ply) (s : State) : State :=
  s.setEntries (s.pipe.entries.modify p (Entry.mark c k))

/-- Whether an entry is the SET entry with that serial and attempt (R28). -/
def Entry.isSet (serial : Word) (attempt : BitVec 2) : Entry → Bool
  | .set e => e.serial == serial && e.attempt == attempt
  | _ => false

/-- Whether the SET entry with that serial and attempt is in the pipeline (R28). -/
def inPipeline (serial : Word) (attempt : BitVec 2) (s : State) : Bool :=
  s.pipe.entries.any (Entry.isSet serial attempt)

/-- A change of the SET entry with that serial and attempt, wherever it stands; nothing where there is none (R28). -/
def changeSet (serial : Word) (attempt : BitVec 2) (f : SetEntry → SetEntry) (s : State) : State :=
  s.setEntries (s.pipe.entries.map fun
    | .set e => if e.serial == serial && e.attempt == attempt then .set (f e) else .set e
    | e => e)

/-- A mark addressed by serial and attempt (R28). -/
def markSerial (serial : Word) (attempt : BitVec 2) (c : Cause) (k : Option Ply) (s : State) : State :=
  changeSet serial attempt (fun e => e.mark c k) s

/-- The serial of the SET entry at a position; 0 for a BLANK or PENDING one (R46, R87). -/
def Entry.serialOf : Entry → Word
  | .set e => e.serial
  | _ => 0

/-- The entry at a position; BLANK where there is none. -/
def entryAt (s : State) (p : Nat) : Entry := s.pipe.entries.getD p .blank

/-- Whether an entry is PENDING (R24). -/
def Entry.isPending : Entry → Bool
  | .pending .. => true
  | _ => false

/-- Whether an entry is BLANK (R24). -/
def Entry.isBlank : Entry → Bool
  | .blank => true
  | _ => false

/-- Whether an entry is a SET entry (R24). -/
def Entry.isSetEntry : Entry → Bool
  | .set _ => true
  | _ => false

/-- Whether the entry at position 0 is PENDING (R24). -/
def pendingAtZero (s : State) : Bool := (entryAt s 0).isPending

/-- A PENDING entry at position 0 becomes BLANK, its causes discarded and the RESERVE_WAIT count one higher
(R34, R40). Any other entry stays. -/
def blankPending (s : State) : State :=
  if pendingAtZero s then
    s.setPipe { s.pipe with entries := s.pipe.entries.modify 0 (fun _ => .blank),
                            reserveWait := satSucc s.pipe.reserveWait }
  else s

/-! ## The job's ticket -/

/-- Ply k's head position, none for a disabled ply or with no job (R23). -/
def headPosOf (s : State) (k : Ply) : Option Nat :=
  match s.ticket.active with
  | some t => if (t.plies.get k).enabled then some (t.headPos k) else none
  | none => none

/-- The enabled plies, ply 1 first (R23). -/
def enabledPlies (s : State) : List Ply := plies.filter fun k => (headPosOf s k).isSome

/-! ## Entering the job states -/

/-- On leaving RUN a PENDING entry at position 0 becomes BLANK (R40). -/
def enterHold (s : State) : State := (blankPending s).setJob .hold

/-- To DRAIN, whose openings are BLANK (R117, R123). -/
def enterDrain (s : State) : State := (blankPending s).setJob .drain

/-- To READY: the pipeline emptied (R44), GATE active (R94), the splice counters 0 (R86), the hold cause flags clear
(R121). -/
def enterReady (s : State) : State :=
  let s := s.setEntries []
  let s := s.setSpoil { s.spoil with gate := true, zones := .const 0 }
  s.setCtl { s.ctl with job := .ready, command := false, fault := false }

/-- The image state of ply k on an entry; NONE for a BLANK or PENDING one (R46). -/
def Entry.imageOf (k : Ply) : Entry → ImageState
  | .set e => e.image.get k
  | _ => .none

/-- The collator position of the job (R23). -/
def collatorOf (s : State) : Nat := (s.ticket.active.map Ticket.collator).getD 0

/-- The gate distance of the job (R23). -/
def gateDistOf (s : State) : Nat := (s.ticket.active.map Ticket.gateDist).getD 0

/-- The serial at P_k, 0 for a disabled ply (R46). -/
def serialAtHead (s : State) (k : Ply) : Word :=
  match headPosOf s k with
  | some p => (entryAt s p).serialOf
  | none => 0

/-- The image state of ply k at P_k, NONE for a disabled ply (R46). -/
def imageAtHead (s : State) (k : Ply) : ImageState :=
  match headPosOf s k with
  | some p => (entryAt s p).imageOf k
  | none => .none

/-- The halt snapshot (R125, R46). -/
def takeSnapshot (kind : FaultKind) (ply : BitVec 3) (serial : Word) (prev : JobState) (s : State) : Snapshot :=
  { valid := true, stamp := s.pipe.pitchCount, prev, kind := some kind, ply, serial,
    serials := ⟨serialAtHead s 0, serialAtHead s 1, serialAtHead s 2, serialAtHead s 3, serialAtHead s 4,
      serialAtHead s 5⟩
    images := ⟨imageAtHead s 0, imageAtHead s 1, imageAtHead s 2, imageAtHead s 3, imageAtHead s 4,
      imageAtHead s 5⟩
    serialC := (entryAt s (collatorOf s)).serialOf
    serialG := (entryAt s (gateDistOf s - 1)).serialOf }

/-- HALT marked on every SET entry (R89). -/
def markHalt (s : State) : State :=
  s.setEntries (s.pipe.entries.map fun
    | .set e => .set (e.mark .halt none)
    | e => e)

/-- Entry to HALTED, in the order of R123. -/
def enterHalted (kind : FaultKind) (ply : BitVec 3) (serial : Word) (s : State) : State :=
  let s1 := markHalt (blankPending s)
  s1.setCtl { s1.ctl with job := .halted, snapshot := takeSnapshot kind ply serial s.ctl.job s1 }

/-- A hold cause present in RUN moves the job to HOLD (R121). -/
def holdTest (s : State) : State := if s.ctl.job = .run ∧ holdCause s then enterHold s else s

/-! ## Claims on the job state (R121 to R123, R38) -/

/-- A claim judged against the job state it finds. -/
def applyClaim (c : Claim) (s : State) : State :=
  match c with
  | .action kind ply serial act =>
    match act with
    | .carryOn => s
    | .hold => if s.ctl.job = .run then enterHold (s.setCtl { s.ctl with fault := true }) else s
    | .halt =>
      if s.ctl.job = .run ∨ s.ctl.job = .hold ∨ s.ctl.job = .drain then enterHalted kind ply serial s else s
  | .exhausted => if s.ctl.job = .run then enterDrain s else s
  | .drained => if s.ctl.job = .drain then enterReady s else s
  | .queueHigh => holdTest s

/-- A claim is applied when it is made, or, made during a pitch operation, when that has ended (R31, R122). -/
def claim (c : Claim) (s : State) : State :=
  if s.ctl.inOperation then s.setCtl { s.ctl with claims := s.ctl.claims ++ [c] } else applyClaim c s

/-- The claims of a pitch operation, applied one after another in the free order once it has ended (R31, R122). -/
def endOperation (s : State) : State :=
  let cs := arrange s.freeCount s.ctl.claims
  let s1 := (s.setCtl { s.ctl with inOperation := false, claims := [] }).setFree (s.freeCount + freeUse cs.length)
  cs.foldl (fun s c => applyClaim c s) s1

/-! ## Raising a fault (R179, R181) -/

/-- The sticky flag set and the history entry written (R179 steps 1 and 2, R180, R181). -/
def recordFault (kind : FaultKind) (ply : BitVec 3) (serial : Word) (s : State) : State :=
  s.setReport { s.report with
    flags := s.report.flags ||| kind.bit
    slots := s.report.slots.set s.report.head.toNat
      (some { kind, ply, serial, stamp := s.pipe.pitchCount })
    head := s.report.head + 1
    total := satSucc s.report.total }

/-- A fault raised: recorded, and its action in force given to job control (R179, R122). -/
def raise (kind : FaultKind) (ply : BitVec 3) (serial : Word) (s : State) : State :=
  claim (.action kind ply serial (actionInForce s kind)) (recordFault kind ply serial s)

/-- Several raises of one moment, each a kind, a ply and a serial, in the free order (R179). -/
def raiseAll (rs : List (FaultKind × BitVec 3 × Word)) (s : State) : State :=
  (arrange s.freeCount rs).foldl (fun s r => raise r.1 r.2.1 r.2.2 s) (s.setFree (s.freeCount + freeUse rs.length))

/-! ## The disposition queue (R170, R172) -/

/-- A record joins at the tail; job control is given the level, which at 48 or more is a hold cause (R172, R121). -/
def pushRecord (r : Record) (s : State) : State :=
  let s := s.setReport { s.report with queue := s.report.queue ++ [r] }
  if queueCause s then claim .queueHigh s else s

/-- A list of records pushed in order. -/
def pushRecords (rs : List Record) (s : State) : State := rs.foldl (fun s r => pushRecord r s) s

/-! ## The faces of the form bus -/

/-- A response sent upstream (R48). -/
def sendUp (q : Requester) (r : Response) (s : State) : State :=
  s.setBus { s.bus with upstream := s.bus.upstream ++ [(q, r)] }

/-- An access passed downstream (R48). -/
def passDown (q : Requester) (a : Access) (s : State) : State :=
  s.setBus { s.bus with downstream := s.bus.downstream ++ [(q, a)] }

/-- The requester of ply k's head feeder, 1 to 6 (section 3.1). -/
def feederId (k : Ply) : Requester := ⟨k.val + 1, by omega⟩

/-- The press controller, requester 0 (section 3.1). -/
def controllerId : Requester := 0

/-- A new command finds the faces idle: `bus` shows what one command carried (log 11). -/
def begin (s : State) : State := s.setBus { upstream := [], downstream := [] }

/-- What the path unit holds for feeder k. -/
def feeder (s : State) (k : Ply) : Feeder := s.path.feeders.get k

def setFeeder (k : Ply) (f : Feeder) (s : State) : State :=
  s.setPath { s.path with feeders := s.path.feeders.set k f }

end Sys2Proof.Machine
end

