-- ==== Sys2Proof/Machine/NumberStore.lean ====
section
/-! DEFINITION. Machine/NumberStore.lean: the array's slots, the book table, what an append writes, the choice of the
next operation (R134) and the arrival of a request (R133). Completions are in Machine/StoreEvents.lean. -/

namespace Sys2Proof.Machine

/-! ## Slots of a sector (R128) -/

namespace Sector

/-- The canonical form: the slot numbers strictly rise. An erased slot is not listed, so equal sectors are equal
lists. -/
def wf : Sector → Bool
  | [] => true
  | [_] => true
  | (n, _) :: (m, y) :: rest => decide (n < m) && wf ((m, y) :: rest)

/-- The slot with a number; none where it is erased. -/
def slot (sec : Sector) (n : Nat) : Option Slot := (sec.find? fun p => p.1 == n).map (·.2)

/-- One slot programmed. -/
def program (n : Nat) (x : Slot) : Sector → Sector
  | [] => [(n, x)]
  | (m, y) :: rest =>
    if n < m then (n, x) :: (m, y) :: rest
    else if n = m then (n, x) :: rest
    else (m, y) :: program n x rest

/-- The highest programmed slot, 0 where none is programmed (R128). -/
def highest (sec : Sector) : Nat := sec.foldl (fun h p => max h p.1) 0

/-- The free slots, above the highest programmed one (R128). -/
def free (sec : Sector) : Nat := Config.sectorSlots - 1 - highest sec

/-- What an erase that did not reach its end leaves: the slots kept, those left programmed with a failing check, and
every other slot erased (R136). -/
def partErased (kept torn : List Nat) (sec : Sector) : Sector :=
  sec.filterMap fun p =>
    if p.1 ∈ kept then some p
    else if p.1 ∈ torn then some (p.1, { p.2 with sound := false })
    else none

/-- The generation of a HEADER in slot 0 that passes its check (R142). -/
def generation (sec : Sector) : Option Word :=
  match slot sec 0 with
  | some x => if x.sound then (match x.body with | .header g => some g | _ => none) else none
  | none => none

end Sector

namespace Store

/-- The ACTIVE sector (R131). -/
def active (st : Store) : Option SectorId := fours.find? fun i => st.sectors.get i == .active

/-- The lowest-numbered sector in a state. -/
def lowest (st : Store) (x : SectorState) : Option SectorId := fours.find? fun i => st.sectors.get i == x

/-- The free slots of the ACTIVE sector, 0 when there is none (R149). -/
def activeFree (st : Store) : Nat :=
  match active st with
  | some a => Sector.free (st.array.get a)
  | none => 0

/-- The generation of the ACTIVE sector, 0 when there is none (R149). -/
def activeGeneration (st : Store) : Word :=
  match active st with
  | some a => (Sector.generation (st.array.get a)).getD 0
  | none => 0

/-- The row of a book (R132). -/
def row (st : Store) (book : Word) : Option BookRow := st.table.find? fun r => r.book == book

def setSector (st : Store) (i : SectorId) (x : SectorState) : Store := { st with sectors := st.sectors.set i x }

def setArray (st : Store) (i : SectorId) (x : Sector) : Store := { st with array := st.array.set i x }

end Store

/-! ## The book table (R132) -/

/-- A new row, kept in ascending order of book id. -/
def insertRow (x : BookRow) : List BookRow → List BookRow
  | [] => [x]
  | y :: rest => if x.book.toNat < y.book.toNat then x :: y :: rest else y :: insertRow x rest

/-- A change of the row of one book. -/
def changeRow (book : Word) (f : BookRow → BookRow) (t : List BookRow) : List BookRow :=
  t.map fun r => if r.book == book then f r else r

/-- What the completion of an entry does to the table (R132). -/
def tableAfter (body : EntryBody) (t : List BookRow) : List BookRow :=
  match body with
  | .reserve book dir value _ _ =>
    if t.any (fun r => r.book == book) then changeRow book (fun r => { r with high := value, opened := true }) t
    else insertRow { book, dir, high := value, opened := true, empty := true, prior := none } t
  | .close book _ value empty =>
    changeRow book (fun r => { r with high := value, prior := some value, opened := false, empty }) t
  | .retire book => t.filter fun r => r.book != book
  | .header _ => t
  | .copy .. => t

/-- What the failure of a close append does to its row (R145). -/
def tableAfterFailedClose (book : Word) (t : List BookRow) : List BookRow :=
  changeRow book (fun r => { r with empty := false, prior := some r.high }) t

/-! ## What an append writes (R135, R144, R145) -/

/-- The fields of the entry a request is written as, fixed when its append starts; none for a close of a book with no
row, which programs nothing (R145). -/
def appendBody (st : Store) (r : Request) : Option EntryBody :=
  match r with
  | .reservation _ book dir limit =>
    match st.row book with
    | some x => some (.reserve book dir limit x.empty x.prior)
    | none => some (.reserve book dir limit true none)
  | .closeAppend _ book dir drawn =>
    match st.row book with
    | none => none
    | some x =>
      match drawn, x.prior with
      | some v, _ => some (.close book dir v false)
      | none, some p => some (.close book dir p x.empty)
      | none, none => some (.close book dir x.high true)
  | .recoveryClose book =>
    match st.row book with
    | none => none
    | some x => some (.close book x.dir x.high false)
  | .retire book => some (.retire book)

/-! ## The choice of the next operation (R134) -/

/-- Compaction is needed: the ACTIVE sector has 32 free slots or fewer, or there is none (R138, R144), and no
compaction is in progress. -/
def compactionNeeded (st : Store) : Bool :=
  st.compaction.isNone && match st.active with
    | some a => decide (Sector.free (st.array.get a) ≤ Config.compactionFloor)
    | none => true

/-- The next step of a compaction in progress: the next COPY in the target's next slot, or the HEADER in slot 0
(R138), given the next sequence (R130). -/
def startStep (c : Compaction) (st : Store) : Store :=
  let seq := st.lastSeq + 1
  let op : Operation :=
    match c.todo with
    | x :: _ => .step c.target (Sector.highest (st.array.get c.target) + 1) seq
        (.copy x.book x.dir x.high x.opened x.empty x.prior)
    | [] => .step c.target 0 seq (.header (st.activeGeneration + 1))
  { st with op := some op, lastSeq := seq, compaction := some c }

/-- Choice 1 of R134: a compaction's next step, where one is in progress, or is needed and an ERASED sector is
available as its target. -/
def compactionStart (st : Store) : Option Store :=
  match st.compaction with
  | some c => some (startStep c st)
  | none =>
    if compactionNeeded st then
      match st.lowest .erased with
      | some t => some (startStep { target := t, todo := st.table, retried := false } st)
      | none => none
    else none

/-- Choice 2 of R134: the append at the head, in the next free slot of the ACTIVE sector (R135, R130). -/
def appendStart (st : Store) (body : EntryBody) : Option Store :=
  match st.active with
  | some a =>
    if Sector.free (st.array.get a) = 0 then none
    else
      let seq := st.lastSeq + 1
      some { st with op := some (.append a (Sector.highest (st.array.get a) + 1) seq body), lastSeq := seq }
  | none => none

/-- Choice 3 of R134: the erase of the lowest-numbered FULL sector. -/
def eraseStart (st : Store) : Store :=
  match st.lowest .full with
  | some i => { st.setSector i .erasing with op := some (.erase i) }
  | none => st

/-- The head append waits because the ACTIVE sector has no free slot (R137). -/
def headBlocked (st : Store) : Bool := st.active.isSome && decide (st.activeFree = 0)

/-- Whether the store may start an operation: its scan is made, the resource is free, and it is neither QUIESCED nor
FAILED (R134, R142; log 17). -/
def mayStart (st : Store) : Bool :=
  st.scanMade && st.op.isNone && !st.quiesced && match st.phase with
    | .failed _ => false
    | _ => true

/-- The head append waits for a free slot: STORE_FAULT where the wait is first found, and an erase may start (R137). -/
def waitFull (s : State) : State :=
  let t := s.setStore (eraseStart { s.store with fullWait := true })
  if s.store.fullWait then t else raise .storeFault 0 0 t

/-- The head request, a close append of a book with no row, leaves the queue (R145). -/
def dropHead (s : State) : State :=
  s.setStore { s.store with queue := s.store.queue.drop 1, retried := false }

/-- The append at the head of the queue, where there is one, else an erase (R134, choices 2 and 3). A close append of a
book with no row is answered at once: `told` is its completion notice, and the store then `again` chooses (R145). -/
def chooseAppend (told again : State → State) (s : State) : State :=
  match s.store.queue.head? with
  | none => s.setStore (eraseStart s.store)
  | some r =>
    match appendBody s.store r with
    | none => again (told (dropHead s))
    | some body =>
      match appendStart s.store body with
      | some st => s.setStore st
      | none => if headBlocked s.store then waitFull s else s.setStore (eraseStart s.store)

/-- The choice of R134, made again after each close append answered. -/
def chooseFrom (told : State → State) : Nat → State → State
  | 0, s => s
  | fuel + 1, s =>
    if mayStart s.store then
      match compactionStart s.store with
      | some st => s.setStore st
      | none => chooseAppend told (chooseFrom told fuel) s
    else s

/-- The store chooses its next operation, where it may (R134); `told` tells CLOSE of a close append answered. -/
def choose (told : State → State) (s : State) : State := chooseFrom told (s.store.queue.length + 1) s

/-- Whether an arriving request is refused (R133). -/
def refuses (st : Store) : Bool :=
  decide (Config.requestCapacity ≤ st.queue.length) || match st.phase with
    | .failed _ => true
    | _ => false

/-- A request joins the tail of the queue and the store chooses (R133, R134). -/
def joinTelling (told : State → State) (r : Request) (s : State) : State :=
  choose told (s.setStore { s.store with queue := s.store.queue ++ [r] })

/-- A reservation or retire request joins the queue. No CLOSE is pending then (R163, R190), so none is told. -/
def joinQueue (r : Request) (s : State) : State := joinTelling id r s

/-! ## The end of recovery (R144) -/

/-- Whether a request is a recovery close. -/
def Request.isRecoveryClose : Request → Bool
  | .recoveryClose _ => true
  | _ => false

/-- Whether a request is a close append. -/
def Request.isCloseAppend : Request → Bool
  | .closeAppend .. => true
  | _ => false

/-- Recovery ends when an ACTIVE sector exists and no recovery close is left, but not while QUIESCED (R144, R140). -/
def endRecovery (s : State) : State :=
  if s.store.phase = .recovering ∧ s.store.quiesced = false ∧ s.store.active.isSome ∧
      s.store.queue.any Request.isRecoveryClose = false then
    s.setStore { s.store with phase := .inService }
  else s

end Sys2Proof.Machine
end

