-- ==== Sys2Proof/Machine/StreamUnit.lean ====
section
/-! DEFINITION. Machine/StreamUnit.lean: valid values (R3), the proof generator (R20, R21), draws (R5 to R8),
reservation requests (R15, R16) and what LOAD and CLOSE do to the streams (R4, R22). -/

namespace Sys2Proof.Machine

/-- A stream's state record. -/
def streamAt (s : State) (i : StreamId) : StreamState := s.streams.each.get i

def setStream (i : StreamId) (x : StreamState) (s : State) : State :=
  s.setStreams { s.streams with each := s.streams.each.set i x }

/-! ## Valid values (R3) -/

/-- A value inside a used skip range is passed over (R3). -/
def skipped (d : StreamDesc) (x : Word) : Bool :=
  d.skips.any fun r => decide (r.1.toNat ≤ r.2.toNat ∧ r.1.toNat ≤ x.toNat ∧ x.toNat ≤ r.2.toNat)

/-- What a member of the lattice needs beside being one (R3). -/
def admissible (d : StreamDesc) (x : Word) : Bool := !skipped d x && checkPasses d.check x

/-- Whether an exact value lies beyond last in the stream's direction (R1). -/
def beyondLast (d : StreamDesc) (x : Int) : Bool :=
  if 0 < d.step then decide ((d.last.toNat : Int) < x) else decide (x < (d.last.toNat : Int))

/-- The first admissible member of the lattice from the exact value x on, looking at `fuel` members (R3). -/
def firstFrom (d : StreamDesc) : Nat → Int → Option Word
  | 0, _ => none
  | fuel + 1, x =>
    if beyondLast d x then none
    else if admissible d (BitVec.ofInt 32 x) then some (BitVec.ofInt 32 x)
    else firstFrom d fuel (x + d.step)

/-- Members of the lattice from x to last: enough steps for the search. -/
def latticeFuel (d : StreamDesc) (x : Int) : Nat := (((d.last.toNat : Int) - x).natAbs) / d.step.natAbs + 1

/-- The next valid value after v (R3). -/
def nextValid (d : StreamDesc) (v : Word) : Option Word :=
  let x := (v.toNat : Int) + d.step
  firstFrom d (latticeFuel d x) x

/-- The first valid value of the run (R3). -/
def firstValid (d : StreamDesc) : Option Word :=
  firstFrom d (latticeFuel d d.first.toNat) d.first.toNat

/-! ## The proof generator (R20, R21) -/

/-- One step: left by one, bit 0 the exclusive-or of bits 23, 22, 21 and 16 (R20). -/
def genStep (g : BitVec 24) : BitVec 24 :=
  let b := (g.getLsbD 23 != g.getLsbD 22) != (g.getLsbD 21 != g.getLsbD 16)
  (g <<< 1) ||| (if b then 1 else 0)

/-- The register after n steps. -/
def genSteps : Nat → BitVec 24 → BitVec 24
  | 0, g => g
  | n + 1, g => genSteps n (genStep g)

/-- 24 steps, and 24 more while the MOD11 check result is 10 (R21). The register has fewer than 2^24 states, so
the repetitions end within the fuel (log 15). -/
def proofFrom (m : CheckMethod) : Nat → BitVec 24 → Word × BitVec 24
  | 0, g => (BitVec.ofNat 32 (g.toNat % 1000000), g)
  | fuel + 1, g =>
    let g' := genSteps 24 g
    let v : Word := BitVec.ofNat 32 (g'.toNat % 1000000)
    if checkPasses m v then (v, g') else proofFrom m fuel g'

/-- The next proof value of a method (R21). -/
def proofValue (m : CheckMethod) (g : BitVec 24) : Word × BitVec 24 := proofFrom m 16777216 g

/-- The seed: the low 24 bits of the job id, or 1 when they are all zero (R20). -/
def genSeed (jobId : Word) : BitVec 24 :=
  let g : BitVec 24 := jobId.setWidth 24
  if g = 0 then 1 else g

/-! ## Reservations (R14 to R16) -/

/-- A booked stream's value is covered when it is at or within a present limit (R14). -/
def covered (d : StreamDesc) (x : StreamState) : Bool :=
  match x.limit with
  | some l => !beyond d.dir x.v l
  | none => false

/-- The nearer of an exact value and last, in the stream's direction (R15, R16). -/
def nearer (d : StreamDesc) (x : Int) : Word :=
  if beyondLast d x then d.last else BitVec.ofInt 32 x

/-- The steps remaining from v to a limit (R14). -/
def stepsLeft (d : StreamDesc) (v limit : Word) : Int := ((limit.toNat : Int) - v.toNat).tdiv d.step

/-- A request joins the store's queue and the flag is set; refused, the flag clears again (R15, R18). -/
def request (i : StreamId) (d : StreamDesc) (limit : Word) (s : State) : State :=
  let x := streamAt s i
  if refuses s.store then setStream i { x with inFlight := false, requested := limit } s
  else joinQueue (.reservation i d.book d.dir limit) (setStream i { x with inFlight := true, requested := limit } s)

/-- The limit an initial request asks for (R15). -/
def initialLimit (d : StreamDesc) (v : Word) : Word := nearer d (v.toNat + 63 * d.step)

/-- The limit a renewal asks for (R16). -/
def renewalLimit (d : StreamDesc) (old : Word) : Word := nearer d (old.toNat + 64 * d.step)

/-- The condition of a renewal for a booked stream (R16). -/
def renewalDue (d : StreamDesc) (x : StreamState) : Option Word :=
  match x.limit with
  | some l =>
    if x.status = .live ∧ x.inFlight = false ∧ l ≠ d.last ∧ stepsLeft d x.v l ≤ 32 then some (renewalLimit d l)
    else none
  | none => none

/-- R16 tested for stream i. -/
def testRenewal (t : Ticket) (i : StreamId) (s : State) : State :=
  if t.booked i then
    match renewalDue (t.streams.get i) (streamAt s i) with
    | some l => request i (t.streams.get i) l s
    | none => s
  else s

/-- An initial request where the limit is absent, R16 where it is present, for a booked LIVE stream with no request in
flight (R15, R16). -/
def askReservation (t : Ticket) (i : StreamId) (s : State) : State :=
  let x := streamAt s i
  if t.booked i && x.status == .live && !x.inFlight then
    match x.limit with
    | none => request i (t.streams.get i) (initialLimit (t.streams.get i) x.v) s
    | some _ => testRenewal t i s
  else s

/-- What START asks of the streams (R15, R16). The order in which several streams' requests join the store's queue is the
model's choice: S0 first (DESIGN CHOICE, log 16). -/
def startReservations (t : Ticket) (s : State) : State := fours.foldl (fun s i => askReservation t i s) s

/-! ## Draws (R5 to R8) -/

/-- The draw record after a value is returned (R8). -/
def recordDraw (v : Word) (x : StreamState) : StreamState :=
  if x.drawn = false then { x with drawn := true, firstDrawn := v, lastDrawn := v, valuesDrawn := 1 }
  else if v ≠ x.lastDrawn then { x with lastDrawn := v, valuesDrawn := satSucc x.valuesDrawn }
  else x

/-- K, taken as 1 in PER_SET mode (R1). -/
def StreamDesc.every (d : StreamDesc) : Nat := if d.mode = .everyK then d.k else 1

/-- One draw of a LIVE stream: the value returned and the record, and the generator where a proof value is taken
(R5, R6, R8, R21). -/
def drawStream (p : Policy) (d : StreamDesc) (x : StreamState) (g : BitVec 24) : Word × StreamState × BitVec 24 :=
  match d.mode with
  | .fixed => (d.first, recordDraw d.first x, g)
  | _ =>
    let y := recordDraw x.v x
    if x.u.toNat + 1 < d.every then (x.v, { y with u := x.u + 1 }, g)
    else if p = .proof then
      let n := proofValue d.check g
      (x.v, { y with u := 0, v := n.1 }, n.2)
    else match nextValid d x.v with
      | some v' => (x.v, { y with u := 0, v := v' }, g)
      | none => (x.v, { y with u := 0, status := .exhausted }, g)

/-- The answers to a draw request (R7). -/
inductive DrawAnswer where
  | exhausted | uncovered | waiting | drawn
deriving DecidableEq, Repr

/-- An active booked stream whose value its limit does not cover (R7). -/
def needsLimit (t : Ticket) (s : State) (i : StreamId) : Bool :=
  t.booked i && !covered (t.streams.get i) (streamAt s i)

/-- The answer of R7. -/
def drawAnswer (t : Ticket) (s : State) : DrawAnswer :=
  if t.activeStreams.any fun i => (streamAt s i).status == .exhausted then .exhausted
  else if t.activeStreams.any fun i => needsLimit t s i && !(streamAt s i).inFlight then .uncovered
  else if t.activeStreams.any fun i => needsLimit t s i then .waiting
  else .drawn

/-- The requests an UNCOVERED answer starts (R7, R16). Their order in the store's queue is the model's choice: S0 first
(DESIGN CHOICE, log 16). -/
def uncoveredRequests (t : Ticket) (s : State) : State :=
  t.activeStreams.foldl (fun s i => if needsLimit t s i && !(streamAt s i).inFlight then askReservation t i s else s) s

/-- One active stream drawn, its value given to the set (R7). -/
def drawInto (t : Ticket) (i : StreamId) (acc : Values × StreamUnit) : Values × StreamUnit :=
  let r := drawStream t.policy (t.streams.get i) (acc.2.each.get i) acc.2.generator
  (acc.1.set i (some r.1), { each := acc.2.each.set i r.2.1, generator := r.2.2 })

/-- Every active stream drawn, S0 first (R7). -/
def drawAll (t : Ticket) (u : StreamUnit) : Values × StreamUnit :=
  t.activeStreams.foldl (fun acc i => drawInto t i acc) (Four.const none, u)

/-- R16 tested after the draws of a set, S0 first as R7 draws them. A draw changes its own stream alone, so testing after
the last draw asks for what testing after each would. -/
def drawnRequests (t : Ticket) (s : State) : State := t.activeStreams.foldl (fun s i => testRenewal t i s) s

/-! ## LOAD (R4) -/

/-- A stream set up at LOAD, and the generator after it (R4, R21). -/
def loadStream (p : Policy) (d : StreamDesc) (g : BitVec 24) : StreamState × BitVec 24 :=
  let x := StreamState.cleared
  if d.active = false then (x, g)
  else if d.mode = .fixed then
    ({ x with v := d.first, status := if admissible d d.first then .live else .exhausted }, g)
  else if p = .proof then
    let n := proofValue d.check g
    ({ x with v := n.1, status := .live }, n.2)
  else match firstValid d with
    | some v => ({ x with v, status := .live }, g)
    | none => ({ x with v := d.first, status := .exhausted }, g)

/-- The streams at the acceptance of LOAD, S0 to S3 (R4, R20). Under VOID and REMAKE the register is not loaded. -/
def loadStreams (t : Ticket) (u : StreamUnit) : StreamUnit :=
  let g := if t.policy = .proof then genSeed t.jobId else u.generator
  let r0 := loadStream t.policy t.streams.a0 g
  let r1 := loadStream t.policy t.streams.a1 r0.2
  let r2 := loadStream t.policy t.streams.a2 r1.2
  let r3 := loadStream t.policy t.streams.a3 r2.2
  { each := ⟨r0.1, r1.1, r2.1, r3.1⟩, generator := r3.2 }

end Sys2Proof.Machine
end

