-- ==== Sys2Proof/Machine/PathUnit.lean ====
section
/-! DEFINITION. Machine/PathUnit.lean: the rendering of field tokens (R56 to R62), continuation records (R63 to R66),
the taking of a head feeder's read response (R50) and the bind wait (R49, R67 to R70). -/

namespace Sys2Proof.Machine

/-! ## Glyph strings (R59) -/

/-- The glyph of digit d, and the space and overflow glyphs (R59). -/
def glyph (base d : Nat) : BitVec 16 := BitVec.ofNat 16 (base + d)

def spaceGlyph (base : Nat) : BitVec 16 := glyph base 10

def overflowGlyph (base : Nat) : BitVec 16 := glyph base 11

/-- A string of spaces over a token's span (R59). -/
def spaceString (t : Token) : List (BitVec 16) := List.replicate t.span (spaceGlyph t.base)

/-- A string of overflow marks over a token's span, the check glyph included (R59). -/
def overflowString (t : Token) : List (BitVec 16) := List.replicate t.span (overflowGlyph t.base)

/-- The value right-aligned in W positions behind its fill, and the check digit's glyph when it is asked for (R59). -/
def valueString (t : Token) (m : CheckMethod) (v : Word) : List (BitVec 16) :=
  let ds := (digits v).reverse.map (glyph t.base)
  let fill := if t.spaces then spaceGlyph t.base else glyph t.base 0
  List.replicate (t.width - ds.length) fill ++ ds ++
    (if t.check then [glyph t.base ((checkResult m v).getD 0)] else [])

/-! ## The treatment of a token (R57) -/

/-- What becomes of a token: returned unchanged, or rendered as a glyph string with the serial and attempt held for the
field (0 and 0 for spaces). `bad` names the SET entry that TOKEN_BAD marks. -/
inductive Treatment where
  | unchanged (bad : Option (Word × BitVec 2))
  | span (glyphs : List (BitVec 16)) (serial : Word) (attempt : BitVec 2) (bad : Bool)
deriving DecidableEq, Repr

/-- The treatment of a token against the entry at the ply's head position (R57, rows 4 to 7). -/
def treatAgainst (t : Ticket) (tok : Token) (wellFormed : Bool) (e : Entry) : Treatment :=
  let d := t.streams.get tok.stream
  let owner : Option (Word × BitVec 2) := match e with
    | .set x => some (x.serial, x.attempt)
    | _ => none
  if !wellFormed || !d.active || (tok.check && d.check == .none) then .unchanged owner
  else match e with
    | .blank => .span (spaceString tok) 0 0 false
    | .pending .. => .span (spaceString tok) 0 0 false
    | .set x =>
      match x.values.get tok.stream with
      | none => .unchanged owner
      | some v =>
        if (digits v).length ≤ tok.width then .span (valueString tok d.check v) x.serial x.attempt false
        else .span (overflowString tok) x.serial x.attempt true

/-- The treatment of the token `w` of ply k at offset `off` (R57). A PENDING entry never comes here in a running state:
its response is held. -/
def treat (s : State) (k : Ply) (off : Nat) (w : Word) : Treatment :=
  let tok := tokenOf w
  let wf := tok.wellFormed k off
  match s.ticket.active, headPosOf s k with
  | some t, some p =>
    if s.ctl.job.running then treatAgainst t tok wf (entryAt s p)
    else if wf then .span (spaceString tok) 0 0 false else .unchanged none
  | _, _ => if wf then .span (spaceString tok) 0 0 false else .unchanged none

/-! ## Rendering a response (R60) -/

/-- A field being rendered: the glyphs not yet returned and the serial and attempt held for it. -/
structure OpenField where
  glyphs : List (BitVec 16)
  serial : Word
  attempt : BitVec 2
deriving DecidableEq, Repr

/-- What a taken response tells the pipeline (R61, R62, R65). -/
inductive PathMark where
  | completed (serial : Word) (attempt : BitVec 2)
  | tokenBad (serial : Word) (attempt : BitVec 2)
  | broken (serial : Word) (attempt : BitVec 2)
deriving DecidableEq, Repr

/-- The next glyph of an open field, its completion where it is the last, and the field that stays open (R60, R62). -/
def emit (g : BitVec 16) (rest : List (BitVec 16)) (serial : Word) (attempt : BitVec 2) :
    Word × List PathMark × Option OpenField :=
  match rest with
  | [] => (g.setWidth 32, [.completed serial attempt], none)
  | _ :: _ => (g.setWidth 32, [], some { glyphs := rest, serial, attempt })

/-- A word that lies in no span: a token is treated, any other word is returned as memory holds it (R56, R57). -/
def renderFresh (s : State) (k : Ply) (a : Addr) (w : Word) : Word × List PathMark × Option OpenField :=
  match regionOf s.path.wbase a with
  | .slot j off =>
    if j = k ∧ isMarked w then
      match treat s k off w with
      | .unchanged none => (w, [], none)
      | .unchanged (some o) => (w, [.tokenBad o.1 o.2], none)
      | .span [] _ _ _ => (w, [], none)
      | .span (g :: rest) serial attempt bad =>
        let r := emit g rest serial attempt
        (r.1, (if bad then [PathMark.tokenBad serial attempt] else []) ++ r.2.1, r.2.2)
    else (w, [], none)
  | _ => (w, [], none)

/-- One word of a response, in a span or not (R56, R60). -/
def renderWord (s : State) (k : Ply) (a : Addr) (o : Option OpenField) (w : Word) :
    Word × List PathMark × Option OpenField :=
  match o with
  | some { glyphs := g :: rest, serial, attempt } => emit g rest serial attempt
  | _ => renderFresh s k a w

/-- The words of a response in order: the words returned, the marks, and the field left open at its end (R60). -/
def renderWords (s : State) (k : Ply) : Addr → Option OpenField → List Word →
    List Word × List PathMark × Option OpenField
  | _, o, [] => ([], [], o)
  | a, o, w :: ws =>
    let r := renderWord s k a o w
    let rest := renderWords s k (a + 4) r.2.2 ws
    (r.1 :: rest.1, r.2.1 ++ rest.2.1, rest.2.2)

/-! ## Taking a response (R50, R64, R65) -/

/-- The field a response continues, or the mark of the field it abandons (R64, R65). -/
def resume? (c : Option Continuation) (a : Addr) : Option OpenField × List PathMark :=
  match c with
  | none => (none, [])
  | some c =>
    if c.next = a then (some { glyphs := c.glyphs, serial := c.serial, attempt := c.attempt }, [])
    else (none, [.broken c.serial c.attempt])

/-- A completed field adds 1 to the entry's count for the ply, up to 15 (R29, R62); a field of spaces has serial 0 and
makes no completion. -/
def completeField (k : Ply) (serial : Word) (attempt : BitVec 2) (s : State) : State :=
  if serial = 0 then s
  else changeSet serial attempt (fun e => { e with fields := e.fields.set k (satSucc (e.fields.get k)) }) s

/-- A mark sent to the pipeline, with its fault (R61, R62, R65). -/
def applyPathMark (k : Ply) (m : PathMark) (s : State) : State :=
  match m with
  | .completed serial attempt => completeField k serial attempt s
  | .tokenBad serial attempt =>
    raise .tokenBad (plyNumber k) serial (markSerial serial attempt .tokenBad (some k) s)
  | .broken serial attempt =>
    if serial ≠ 0 ∧ inPipeline serial attempt s then
      raise .fieldBroken (plyNumber k) serial (markSerial serial attempt .fieldBroken (some k) s)
    else s

/-- A read response of feeder k taken whole: rendered against the state at that moment, its record and marks applied,
and sent upstream with its status unchanged (R48, R50). A response with no word is a write's and passes (log 12). -/
def takeResponse (k : Ply) (r : Response) (s : State) : State :=
  match r.words with
  | [] => sendUp (feederId k) r s
  | _ :: _ =>
    let f := feeder s k
    let o := resume? f.cont r.addr
    let out := renderWords s k r.addr o.1 r.words
    let cont := out.2.2.map fun x =>
      { glyphs := x.glyphs, next := wordAddr r.addr r.words.length, serial := x.serial, attempt := x.attempt }
    let s1 := setFeeder k { f with cont } s
    let s2 := (o.2 ++ out.2.1).foldl (fun s m => applyPathMark k m s) s1
    sendUp (feederId k) { r with words := out.1 } s2

/-! ## The bind wait (R49, R67 to R70) -/

/-- How many words at a response's start the feeder's record supplies (R64). -/
def continued (c : Option Continuation) (a : Addr) : Nat :=
  match c with
  | some c => if c.next = a then c.glyphs.length else 0
  | none => 0

/-- Whether a response holds a field token of ply k's slot outside its continued words (R56, R67). -/
def holdsToken (s : State) (k : Ply) (r : Response) : Bool :=
  let n := continued (feeder s k).cont r.addr
  (List.range r.words.length).any fun i =>
    decide (n ≤ i) && isMarked (r.words.getD i 0) && inSlot s.path.wbase k (wordAddr r.addr i)

/-- A response with a token whose ply's head position holds a PENDING entry is held (R67). -/
def mustHold (s : State) (k : Ply) (r : Response) : Bool :=
  s.ctl.job.running && (match headPosOf s k with
    | some p => (entryAt s p).isPending
    | none => false) && holdsToken s k r

/-- The bind-wait limit of the active ticket (R67). -/
def bindLimitOf (s : State) : Byte := (s.ticket.active.map (·.bindLimit)).getD 0

/-- The expiry of feeder k's timer on a PENDING entry: the entry becomes BLANK and BIND_TIMEOUT is raised (R69, R40). -/
def bindExpire (k : Ply) (s : State) : State := raise .bindTimeout (plyNumber k) 0 (blankPending s)

/-- The response at the head of feeder k's order is taken: it leaves, its timer stopped without expiry (R68). -/
def takeHead (k : Ply) (s : State) : State :=
  let f := feeder s k
  match f.queue with
  | [] => s
  | r :: rest => takeResponse k r (setFeeder k { f with queue := rest, held := false, timer := none } s)

/-- The response at the head of feeder k's order is held and its timer starts; a limit of 0 expires at once (R67). -/
def holdHead (k : Ply) (s : State) : State :=
  let f := feeder s k
  let s1 := setFeeder k { f with held := true, timer := some (bindLimitOf s) } s
  if bindLimitOf s = 0 then bindExpire k s1 else s1

/-- Whether something can be done for feeder k's first response: it is not held yet, or its hold has ended. -/
def headReady (s : State) (k : Ply) : Bool :=
  match (feeder s k).queue with
  | [] => false
  | r :: _ => !(feeder s k).held || !mustHold s k r

/-- The feeder served next: the free order among several (log 6). -/
def pickFeeder (c : Nat) : List Ply → Option Ply
  | [] => none
  | [k] => some k
  | k :: ks => some ((k :: ks).getD (Config.freePick c % (ks.length + 1)) k)

/-- One response held or taken, at the head of its requester's order (R49, R50). -/
def serveHead (k : Ply) (s : State) : State :=
  match (feeder s k).queue with
  | [] => s
  | r :: _ => if mustHold s k r then holdHead k s else takeHead k s

/-- Responses served until each feeder has none left or its first is held (R49, R68, R70). -/
def settleFor : Nat → State → State
  | 0, s => s
  | fuel + 1, s =>
    let ks := plies.filter (headReady s)
    match pickFeeder s.freeCount ks with
    | none => s
    | some k => settleFor fuel (serveHead k (s.setFree (s.freeCount + freeUse ks.length)))

/-- The responses kept back for all feeders. -/
def waitingResponses (s : State) : Nat := (s.path.feeders.toList.map fun f => f.queue.length).sum

/-- The release that follows a change of the entry at position 0, and the taking of what waits behind it (R68, R49).
Each response is held at most once and taken once. -/
def settle (s : State) : State := settleFor (2 * waitingResponses s) s

/-- The held responses released within a pitch operation, when its first stage has made their PENDING entry BLANK: they
end with spaces (R34, R68; log 7). -/
def releaseHeads (s : State) : State :=
  let ks := plies.filter fun k => (feeder s k).held && headReady s k
  (arrange s.freeCount ks).foldl (fun s k => takeHead k s) (s.setFree (s.freeCount + freeUse ks.length))

/-! ## Accesses (R48, R55) -/

/-- The activity counts of an access by head feeder k (R55). -/
def countAccess (k : Ply) (a : Access) (s : State) : State :=
  let f := feeder s k
  let as := Access.addrs a
  setFeeder k { f with
    slotReads := match a.body with
      | .read _ => if as.any (inSlot s.path.wbase k) then f.slotReads + 1 else f.slotReads
      | .write _ => f.slotReads
    strays := if as.any (straysFrom s.path.wbase k) then f.strays + 1 else f.strays } s

end Sys2Proof.Machine
end

