-- ==== Sys2Proof/Machine/SetPipeline.lean ====
section
/-! DEFINITION. Machine/SetPipeline.lean: the pitch operation (R31 to R38), the deadline check (R41), the gate decision
(R92 to R99), openings (R36, R37, R100), PENDING resolution (R39) and the splice zones' step (R88). -/

namespace Sys2Proof.Machine

/-! ## Image and tally checks (R32, R33, R41) -/

/-- One ply's image check on an entry: NONE becomes IMAGED, or MISSED with IMAGE_MISSED marked (R32, R41). -/
def SetEntry.checkImage (k : Ply) (need : Nat) (e : SetEntry) : SetEntry :=
  if e.image.get k ≠ .none then e
  else if need ≤ (e.fields.get k).toNat then { e with image := e.image.set k .imaged }
  else { e with image := e.image.set k .missed }.mark .imageMissed (some k)

/-- Whether the check finds the entry missed now, with its serial. -/
def SetEntry.missesImage (k : Ply) (need : Nat) (e : SetEntry) : Bool :=
  e.image.get k == .none && decide ((e.fields.get k).toNat < need)

/-- The image check of ply k at its head position, for an enabled ply with F_k above 0 (R32, R41): the entries after
it and the fault it raises. -/
def imageCheck (t : Ticket) (k : Ply) (es : List Entry) : List Entry × List (FaultKind × BitVec 3 × Word) :=
  let d := t.plies.get k
  if !d.enabled || d.fields == 0 then (es, [])
  else match es.getD (t.headPos k) .blank with
    | .set e =>
      (es.modify (t.headPos k) (fun _ => .set (e.checkImage k d.fields)),
        if e.missesImage k d.fields then [(.imageMissed, plyNumber k, e.serial)] else [])
    | _ => (es, [])

/-- The image checks of every ply, each at its head position (R32, R41). -/
def imageChecks (t : Ticket) (es : List Entry) : List Entry × List (FaultKind × BitVec 3 × Word) :=
  plies.foldl (fun acc k => let r := imageCheck t k acc.1; (r.1, acc.2 ++ r.2)) (es, [])

/-- Whether ply k's tally state on a leaving entry is MISSING: enabled, its tally enabled, nothing reported (R33). -/
def missesTally (t : Ticket) (e : SetEntry) (k : Ply) : Bool :=
  (t.plies.get k).enabled && (t.plies.get k).tally && e.tally.get k == .none

/-- The tally check at departure from the collator (R33). -/
def tallyCheck (t : Ticket) (es : List Entry) : List Entry × List (FaultKind × BitVec 3 × Word) :=
  match es.getD t.collator .blank with
  | .set e =>
    let ks := plies.filter (missesTally t e)
    let e' := ks.foldl (fun (x : SetEntry) k => { x with tally := x.tally.set k .missing }.mark .tallyMissing (some k)) e
    (es.modify t.collator (fun _ => .set e'), ks.map fun k => (.tallyMissing, plyNumber k, e.serial))
  | _ => (es, [])

/-- The deadline check (R41): every verdict, then the faults. -/
def deadlineCheck (t : Ticket) (s : State) : State :=
  let r := imageChecks t s.pipe.entries
  raiseAll r.2 (s.setEntries r.1)

/-! ## The gate decision (R92 to R96, R99) -/

/-- A decision of R92 on a SET entry: its record's kind, the cause the record adds, and the fault of R95. -/
inductive Decision where
  | pass (kind : SetKind)
  | divert (kind : SetKind)
  | remake
  | limit
  | full
deriving DecidableEq, Repr

/-- The rows of R92 for a SET entry, first row first. -/
def decisionOf (p : Policy) (listed : Nat) (e : SetEntry) : Decision :=
  if e.causes = 0 then
    match p with
    | .proof => .pass .proofGood
    | _ => .pass .good
  else match p with
    | .void => .divert .void
    | .proof => .divert .proofVoid
    | .remake =>
      if e.attempt = 3 then .limit
      else if Config.remakeCapacity ≤ listed then .full
      else .remake

/-- The record of a set (R93). -/
def SetEntry.record (e : SetEntry) (kind : SetKind) (extra : CauseSet) : Record :=
  .ofSet kind e.serial e.attempt e.stamp (e.causes ||| extra) e.plies e.values

/-- The entry of the remake list a set becomes (R98, R99). -/
def SetEntry.toRemake (e : SetEntry) : RemakeEntry :=
  { serial := e.serial, attempt := e.attempt, values := e.values, causes := e.causes, plies := e.plies }

/-- The gate decision of a SET entry (R92, R93, R95, R96, R99). -/
def decideSet (p : Policy) (e : SetEntry) (s : State) : State :=
  let u := s.spoil
  match decisionOf p u.remakes.length e with
  | .pass kind => pushRecord (e.record kind 0) (s.setSpoil { u with gate := false, good := satSucc u.good })
  | .divert kind => pushRecord (e.record kind 0) (s.setSpoil { u with gate := true, void := satSucc u.void })
  | .remake =>
    pushRecord (e.record .remake 0)
      (s.setSpoil { u with gate := true, remade := satSucc u.remade, remakes := u.remakes ++ [e.toRemake] })
  | .limit =>
    raise .remakeLimit 0 e.serial (pushRecord (e.record .void Cause.remakeLimit.bit)
      (s.setSpoil { u with gate := true, void := satSucc u.void }))
  | .full =>
    raise .remakeFull 0 e.serial (pushRecord (e.record .void Cause.remakeFull.bit)
      (s.setSpoil { u with gate := true, void := satSucc u.void }))

/-- The gate decision (R92). An entry handed for decision is never PENDING (R34). -/
def decideEntry (p : Policy) (e : Entry) (s : State) : State :=
  match e with
  | .set x => decideSet p x s
  | _ => s.setSpoil { s.spoil with gate := true, blank := satSucc s.spoil.blank }

/-! ## Openings (R36, R37, R25) -/

/-- A SET entry at its opening (R25). -/
def openedSet (serial : Word) (attempt : BitVec 2) (values : Values) (stamp : Word) (causes : CauseSet)
    (plies : PlyMask) : SetEntry :=
  { serial, attempt, values, stamp, image := .const .none, fields := .const 0, tally := .const .none, causes, plies }

/-- A draw request for a set: EXHAUSTED without asking when no serial is left (R30, R36), else the answer of R7, and
with DRAWN the values and the streams drawn. Its requests are made by `drawRequests`. -/
def drawForSet (t : Ticket) (s : State) : DrawAnswer × Values × State :=
  if s.pipe.opened = BitVec.allOnes 32 then (.exhausted, .const none, s)
  else match drawAnswer t s with
    | .drawn => let r := drawAll t s.streams; (.drawn, r.1, s.setStreams r.2)
    | .uncovered => (.uncovered, .const none, s)
    | .waiting => (.waiting, .const none, s)
    | .exhausted => (.exhausted, .const none, s)

/-- The reservation requests that follow an answer (R7, R16): the answer is computed, and the entry made, before
them. -/
def drawRequests (t : Ticket) (a : DrawAnswer) (s : State) : State :=
  match a with
  | .drawn => drawnRequests t s
  | .uncovered => uncoveredRequests t s
  | .waiting => s
  | .exhausted => s

/-- The opened count one higher: the new count is the serial (R30). -/
def countOpened (s : State) : State := s.setPipe { s.pipe with opened := s.pipe.opened + 1 }

/-- A fresh opening in RUN: the entry for position 0 and the state after the draw (R36). -/
def freshOpening (t : Ticket) (s : State) : Entry × State :=
  let r := drawForSet t s
  match r.1 with
  | .drawn =>
    let s := countOpened r.2.2
    (.set (openedSet s.pipe.opened 1 r.2.1 s.pipe.pitchCount 0 0), drawRequests t .drawn s)
  | .waiting => (.pending s.pipe.pitchCount 0 0, r.2.2)
  | .uncovered => (.blank, raise .storeFault 0 0 (drawRequests t .uncovered r.2.2))
  | .exhausted => (.blank, claim .exhausted r.2.2)

/-- The entry for position 0 (R36): in RUN the oldest remake (R37, R100) or a fresh opening; BLANK in the other
running states. -/
def opening (t : Ticket) (s : State) : Entry × State :=
  if s.ctl.job = .run then
    match s.spoil.remakes with
    | x :: rest =>
      (.set (openedSet x.serial (x.attempt + 1) x.values s.pipe.pitchCount 0 0),
        s.setSpoil { s.spoil with remakes := rest })
    | [] => freshOpening t s
  else (.blank, s)

/-! ## PENDING resolution (R39) -/

/-- The PENDING entry at position 0 becomes another entry. -/
def replaceZero (e : Entry) (s : State) : State := s.setEntries (s.pipe.entries.modify 0 fun _ => e)

/-- A reservation notice: a PENDING entry at position 0 in RUN asks again and is resolved by the answer (R39). -/
def resolvePending (s : State) : State :=
  match s.ticket.active, entryAt s 0 with
  | some t, .pending stamp causes plies =>
    if s.ctl.job = .run then
      let r := drawForSet t s
      match r.1 with
      | .drawn =>
        let s := countOpened r.2.2
        drawRequests t .drawn (replaceZero (.set (openedSet s.pipe.opened 1 r.2.1 stamp causes plies)) s)
      | .waiting => r.2.2
      | .uncovered => raise .storeFault 0 0 (drawRequests t .uncovered (blankPending r.2.2))
      | .exhausted => claim .exhausted (blankPending r.2.2)
    else s
  | _, _ => s

/-! ## The pitch operation (R31) -/

/-- Stage 1, the closing checks (R32, R33, R34); `first` are raises the operation makes beside them: CUE_LOST, of which R113
says only that it is raised during the operation. That it is raised here, before the raises of stages 3 and 4, is the model's
choice (DESIGN CHOICE, log 16). -/
def closingChecks (t : Ticket) (first : List (FaultKind × BitVec 3 × Word)) (s : State) : State :=
  let r := imageChecks t s.pipe.entries
  let q := tallyCheck t r.1
  let s1 := raiseAll (first ++ r.2 ++ q.2) (s.setEntries q.1)
  if pendingAtZero s1 then releaseHeads (blankPending s1) else s1

/-- Stages 2 and 3: the oldest entry moves past the last position and is decided (R35). -/
def shiftAndDecide (t : Ticket) (s : State) : State :=
  match s.pipe.entries.getLast? with
  | some e => decideEntry t.policy e (s.setEntries s.pipe.entries.dropLast)
  | none => s

/-- Stage 4: the new entry stands at position 0, the others one position on (R35, R36). -/
def openNew (t : Ticket) (s : State) : State :=
  let r := opening t s
  r.2.setEntries (r.1 :: r.2.pipe.entries)

/-- One ply's splice counter after the operation: above 0, it marks the entry now at P_k and falls by 1 (R88). -/
def spliceStep (s : State) (k : Ply) : State :=
  let n := s.spoil.zones.get k
  match headPosOf s k with
  | some p =>
    if n = 0 then s
    else markAt p .splice (some k) (s.setSpoil { s.spoil with zones := s.spoil.zones.set k (n - 1) })
  | none => s

/-- In DRAIN with every entry BLANK, the pipeline tells job control it has drained (R38). -/
def drainedNotice (s : State) : State :=
  if s.ctl.job = .drain ∧ s.pipe.entries.all Entry.isBlank then claim .drained s else s

/-- The pitch operation in a running state, as one operation (R31), with the splice zones' step (R88); its claims on
the job state are applied when it has ended. -/
def pitchOperation (t : Ticket) (first : List (FaultKind × BitVec 3 × Word)) (s : State) : State :=
  let s := s.setPipe { s.pipe with pitchCount := s.pipe.pitchCount + 1 }
  let s := s.setCtl { s.ctl with inOperation := true, claims := [] }
  let s := openNew t (shiftAndDecide t (closingChecks t first s))
  endOperation (drainedNotice (plies.foldl spliceStep s))

/-! ## The pitch and deadline events by job state (R114) -/

/-- The encoder count cleared: a new interval, its deadline not made (R110, R111). -/
def clearEncoder (s : State) : State := s.setTimer { s.timer with encoder := 0, deadlineMade := false }

/-- One make-ready pitch more (R114). -/
def countMakeReady (s : State) : State := s.setTimer { s.timer with makeReady := satSucc s.timer.makeReady }

/-- A pitch event made by the timer: the count returns to 0, and the blocks take it by the job state (R114). What
waits behind a released response is taken after the operation (log 7). -/
def pitch (first : List (FaultKind × BitVec 3 × Word)) (s : State) : State :=
  let s := clearEncoder s
  match s.ctl.job with
  | .idle => raiseAll first (countMakeReady s)
  | .ready => raiseAll first (countMakeReady s)
  | .closing => raiseAll first s
  | _ =>
    match s.ticket.active with
    | some t => settle (pitchOperation t first s)
    | none => s

end Sys2Proof.Machine
end

