-- ==== Sys2Proof/Machine/Lines.lean ====
section
/-! DEFINITION. Machine/Lines.lean: the line monitor: samples and debounce (R105), edges and level changes (R106 to
R108), the change of settings, and the meanings of the line commands. -/

namespace Sys2Proof.Machine

/-! ## Power warning and HOLDREQ (R108, R140) -/

/-- PWRWARN becomes active: POWER_WARN raised, the store QUIESCED unless FAILED (R108, R140). -/
def powerActive (s : State) : State :=
  let s := raise .powerWarn 0 0 (s.setLines { s.lines with pwrwarn := true })
  match s.store.phase with
  | .failed _ => s
  | _ => s.setStore { s.store with quiesced := true }

/-- PWRWARN becomes inactive: a QUIESCED store returns to the state it left and ends recovery if nothing is left of it
(R140). Its choice of R134 follows in `chooseIfLeft`. -/
def powerInactive (s : State) : State :=
  let s := s.setLines { s.lines with pwrwarn := false }
  if s.store.quiesced then endRecovery (s.setStore { s.store with quiesced := false }) else s

/-- HOLDREQ becomes active or inactive; active, it is a hold cause (R108, R121). -/
def holdreqTo (active : Bool) (s : State) : State :=
  let s := s.setLines { s.lines with holdreq := active }
  if active then holdTest s else s

/-! ## A change of the settings in force (R106) -/

/-- A new active ticket, or none: every run count 0, accepted levels kept, no edge; HOLDREQ and PWRWARN judged by the
new settings (R106). -/
def setSettings (t : Option Ticket) (s : State) : State :=
  let s := s.setTicket { s.ticket with active := t }
  let s := s.setLines { s.lines with runs := List.replicate 18 0 }
  let s := if inputActive s inHoldreq != s.lines.holdreq then holdreqTo (inputActive s inHoldreq) s else s
  if inputActive s inPwrwarn != s.lines.pwrwarn then
    (if inputActive s inPwrwarn then powerActive s else powerInactive s)
  else s

/-! ## Samples (R105) -/

/-- The inputs that are sampled: all but ENC (R105). -/
def sampledInputs : List (Fin 18) := [1, 2, 3, 4, 5, 6, 7, 8, 9, 10, 11, 12, 13, 14, 15, 16, 17]

/-- Whether an input is an edge input (R104). -/
def isEdgeInput (n : Fin 18) : Bool := decide (1 ≤ n.val ∧ n.val ≤ 14)

/-- One bit of the accepted levels. -/
def setLevel (a : BitVec 18) (n : Fin 18) (b : Bool) : BitVec 18 :=
  if b then a ||| BitVec.twoPow 18 n.val else a &&& ~~~(BitVec.twoPow 18 n.val)

/-- One input at a sample, under its settings (R105, R106). -/
def sampleInput (st : LineSetting) (levels : BitVec 18) (n : Fin 18) (m : LineMonitor) : LineMonitor :=
  let x := levels.getLsbD n.val
  let run := m.runs.getD n.val 0
  if x = m.accepted.getLsbD n.val then
    if run = 0 then m else { m with runs := m.runs.set n.val 0, glitches := satSucc m.glitches }
  else if run.toNat < st.debounce then { m with runs := m.runs.set n.val (run + 1) }
  else { m with
    accepted := setLevel m.accepted n x
    runs := m.runs.set n.val 0
    raised := if isEdgeInput n && st.enabled && (x != st.inverted) then m.raised ++ [n] else m.raised }

/-- A sample of the 17 inputs: the first after a reset sets the accepted levels (R105). -/
def sampleLines (levels : BitVec 18) (s : State) : State :=
  if s.lines.sampled then
    s.setLines (sampledInputs.foldl (fun m n => sampleInput (setting s n) levels n m) s.lines)
  else s.setLines { s.lines with sampled := true, accepted := levels &&& ~~~1 }

/-! ## Edges and level changes (R106, R107; log 4) -/

/-- A change of input n accepted: its accepted level becomes the new one and its run count 0 (R105). -/
def acceptLevel (n : Fin 18) (high : Bool) (s : State) : State :=
  s.setLines { s.lines with accepted := setLevel s.lines.accepted n high, runs := s.lines.runs.set n.val 0 }

/-- An edge of input n is taken: one a sample has raised leaves the list. One given from outside stands for its acceptance
too: a change of an enabled input to its active level, once the first sample after a reset has set the accepted levels;
where that level stands already there is no change, and none of a disabled input is an edge (R105, R106; log 4). -/
def takeEdge (n : Fin 18) (s : State) : Option State :=
  if n ∈ s.lines.raised then some (s.setLines { s.lines with raised := s.lines.raised.erase n })
  else if s.lines.sampled && (setting s n).enabled && !inputActive s n then
    some (acceptLevel n (!(setting s n).inverted) s)
  else none

/-- A level input comes to be active or not, its accepted level with it (R105, R106; log 4). -/
def takeLevel (n : Fin 18) (active : Bool) (s : State) : State :=
  if inputActive s n = active then s else acceptLevel n (active != (setting s n).inverted) s

/-- The splice taken by the spoilage and remake unit in a running state with the ply enabled (R87). -/
def spliceTaken (k : Ply) (s : State) : State :=
  match s.ticket.active, headPosOf s k with
  | some t, some p =>
    if s.ctl.job.running then
      let serial := (entryAt s p).serialOf
      let s := markAt p .splice (some k) s
      let s := s.setSpoil { s.spoil with zones := s.spoil.zones.set k ((t.plies.get k).zone - 1) }
      settle (raise .splice (plyNumber k) serial s)
    else s
  | _, _ => s

/-! ## Meanings -/

/-- LINE_SAMPLE (R105). No sample is taken while the RESET line is held. -/
def execLineSample (levels : BitVec 18) (s : State) : Host.Outcome State Fault Refusal :=
  .next (if s.resetting then begin s else sampleLines levels (begin s))

/-- What an edge command does: nothing during a reset or without an edge. -/
def onEdge (n : Fin 18) (f : State → State) (s : State) : Host.Outcome State Fault Refusal :=
  .next (if s.resetting then begin s else
    match takeEdge n (begin s) with
    | some s' => f s'
    | none => begin s)

/-- SPLICE_EDGE (R87). -/
def execSpliceEdge (k : Ply) (s : State) : Host.Outcome State Fault Refusal := onEdge (inSplice k) (spliceTaken k) s

/-- BREAK_EDGE: WEB_BREAK with ply k and serial 0, whether or not ply k is enabled in the job (R107). -/
def execBreakEdge (k : Ply) (s : State) : Host.Outcome State Fault Refusal :=
  onEdge (inBreak k) (fun s => settle (raise .webBreak (plyNumber k) 0 s)) s

/-- JAM_EDGE (R107). -/
def execJamEdge (s : State) : Host.Outcome State Fault Refusal :=
  onEdge inJam (fun s => settle (raise .jam 0 0 s)) s

/-- HOLDREQ_CHANGE (R108, R121). A disabled HOLDREQ is never active, and no change comes before the first sample after a
reset (R105). -/
def execHoldreqChange (active : Bool) (s : State) : Host.Outcome State Fault Refusal :=
  .next (
    let s := begin s
    if s.resetting || !s.lines.sampled || s.lines.holdreq == active || (active && !(setting s inHoldreq).enabled) then s
    else settle (holdreqTo active (takeLevel inHoldreq active s)))

end Sys2Proof.Machine
end

