-- ==== Sys2Proof/Machine/JobEnd.lean ====
section
/-! DEFINITION. Machine/JobEnd.lean: the result word (R164, R165), the end of CLOSE (R191) and the store's choice that may
bring it about, the notices of the number store (R17, R18, R145, R148), the store's failure (R141), and the power warning's
meanings. -/

namespace Sys2Proof.Machine

/-! ## The result word (R164, R165) -/

/-- The answer of a taken command: the result word, and the argument shadows as they stand (R164). -/
def answer (code tag : Byte) (r : ResultCode) (check : BitVec 3) (detail : Word) (s : State) : State :=
  s.setTicket { s.ticket with
    result := { code, tag, result := r, check, detail, echo1 := s.ticket.arg1, echo2 := s.ticket.arg2 } }

/-- The end of the pending command: the result word written afresh, the echo restored, the record cleared (R165). -/
def endPending (r : ResultCode) (detail : Word) (s : State) : State :=
  match s.ticket.waiting with
  | some p =>
    s.setTicket { s.ticket with
      result := { code := p.kind.code, tag := p.tag, result := r, check := 0, detail, echo1 := p.echo1,
                  echo2 := p.echo2 }
      waiting := none }
  | none => s

/-! ## The end of CLOSE (R191) -/

/-- A receiver turned off with its counts cleared (R83). -/
def Receiver.turnedOff (_ : Receiver) : Receiver := .cleared

/-- CLOSE ends: the final result, the job IDLE, and every block drops the job (R191). -/
def closeEnd (s : State) : State :=
  let failed := s.ticket.waiting.bind (·.failed)
  let s := match failed with
    | none => endPending .done 0 s
    | some i => endPending .storeUnavailable (BitVec.ofNat 32 i.val) s
  let s := s.setCtl { s.ctl with job := .idle, snapshot := .cleared }
  let s := s.setStreams .cleared
  let s := s.setPipe .cleared
  let s := s.setSpoil { s.spoil with zones := .const 0, good := 0, void := 0, remade := 0, blank := 0 }
  let s := s.setTally (s.tally.map Receiver.turnedOff)
  let s := s.setPath { s.path with
    feeders := s.path.feeders.map fun f => { f with cont := none, slotReads := 0, strays := 0 } }
  let s := s.setTimer .cleared
  let s := s.setLines { s.lines with glitches := 0 }
  setSettings none s

/-- CLOSE is told of a close append that has left the queue: it ends when that was the last (R191). Its end stands with
the notice, so R135's order puts it before the store's next choice (DEDUCED, log 14), and before a STORE_FAULT of the same
event (DESIGN CHOICE, log 16). -/
def closeIfDone (s : State) : State :=
  match s.ticket.waiting with
  | some p =>
    if p.kind = .close ∧ s.ctl.job = .closing ∧ s.store.queue.any Request.isCloseAppend = false then closeEnd s else s
  | none => s

/-- The store chooses its next operation, CLOSE told of each close append it answers (R134, R145). -/
def chooseNext (s : State) : State := choose closeIfDone s

/-- A store that has left QUIESCED since `s` chooses its next operation (R134, R140). -/
def chooseIfLeft (s t : State) : State := if s.store.quiesced && !t.store.quiesced then chooseNext t else t

/-! ## Notices (R17, R18, R145, R148) -/

/-- A reservation completed: the limit takes the requested one, R16 is tested but not in CLOSING, and the pipeline is
informed (R17, R190). -/
def streamCompleted (i : StreamId) (s : State) : State :=
  let x := streamAt s i
  let s := setStream i { x with limit := some x.requested, inFlight := false } s
  match s.ticket.active with
  | some t => resolvePending (if s.ctl.job = .closing then s else testRenewal t i s)
  | none => s

/-- A reservation failed: the flag clears, the limit stays, and the pipeline is informed (R18). -/
def streamFailed (i : StreamId) (s : State) : State :=
  resolvePending (setStream i { streamAt s i with inFlight := false } s)

/-- CLOSE keeps the lowest stream whose close append has failed (R189). -/
def noteFailedClose (i : StreamId) (s : State) : State :=
  match s.ticket.waiting with
  | some p =>
    let f := match p.failed with
      | some j => if j.val ≤ i.val then j else i
      | none => i
    s.setTicket { s.ticket with waiting := some { p with failed := some f } }
  | none => s

/-- A close append failed: its row keeps its reservation, and CLOSE is told (R145, R189). -/
def closeFailed (i : StreamId) (book : Word) (s : State) : State :=
  noteFailedClose i (s.setStore { s.store with table := tableAfterFailedClose book s.store.table })

/-- The completion notice of a request that has left the queue (R133). -/
def completionNotice (r : Request) (s : State) : State :=
  match r with
  | .reservation i _ _ _ => streamCompleted i s
  | .closeAppend .. => closeIfDone s
  | .recoveryClose _ => s
  | .retire _ => endPending .done 0 s

/-- The failure notice of a request that has left the queue (R133, R18, R145, R144, R148). -/
def failureNotice (r : Request) (s : State) : State :=
  match r with
  | .reservation i _ _ _ => streamFailed i s
  | .closeAppend i book _ _ => closeIfDone (closeFailed i book s)
  | .recoveryClose _ => s
  | .retire _ => endPending .storeUnavailable (BitVec.ofNat 32 (storeStateCode s.store)) s

/-! ## The store FAILED (R141) -/

/-- The queued requests removed, oldest first, each with its failure notice (R141). -/
def removeAll : List Request → State → State
  | [], s => s.setStore { s.store with queue := [] }
  | r :: rest, s => removeAll rest (failureNotice r (s.setStore { s.store with queue := rest }))

/-- The store becomes FAILED: every request fails, and STORE_FAULT is raised (R141). The failure of the last close append
ends CLOSE, so the fault is then raised in IDLE with its pitch count of 0 (DESIGN CHOICE, log 16). -/
def becomeFailed (c : FailCause) (s : State) : State :=
  let q := s.store.queue
  let s := s.setStore { s.store with phase := .failed c, quiesced := false, retried := false }
  raise .storeFault 0 0 (removeAll q s)

/-! ## Meanings -/

/-- PWRWARN_ACTIVE (R108, R140): once for each activation; a disabled PWRWARN is never active, and no change comes before
the first sample after a reset (R105). -/
def execPwrwarnActive (s : State) : Host.Outcome State Fault Refusal :=
  .next (
    let s := begin s
    if s.resetting || !s.lines.sampled || s.lines.pwrwarn || !(setting s inPwrwarn).enabled then s
    else settle (powerActive (takeLevel inPwrwarn true s)))

/-- PWRWARN_INACTIVE (R108, R140). -/
def execPwrwarnInactive (s : State) : Host.Outcome State Fault Refusal :=
  .next (
    let s := begin s
    if s.resetting || !s.lines.sampled || !s.lines.pwrwarn then s
    else settle (chooseIfLeft s (powerInactive (takeLevel inPwrwarn false s))))

end Sys2Proof.Machine
end

