-- ==== Sys2Proof/Machine/Commands.lean ====
section
/-! DEFINITION. Machine/Commands.lean: the ticket block: staging (R150 to R152), the taking of a command (R162, R163), and
the eleven commands with the checks of LOAD (R155 to R160, R116 to R120, R186 to R189, R90, R147, R166). -/

namespace Sys2Proof.Machine

/-! ## Staging (R150 to R152) -/

/-- One word of a press-controller write as the ticket block takes it (R150 to R152). -/
def stageWord (a : Addr) (w : WordWrite) (s : State) : State :=
  match ticketPlace s.path.wbase a with
  | .staged i =>
    s.setTicket { s.ticket with staged := s.ticket.staged.set i (mergeBytes (stagedWord s.ticket.staged i) w) }
  | .arg1 => s.setTicket { s.ticket with arg1 := mergeBytes s.ticket.arg1 w }
  | .arg2 => s.setTicket { s.ticket with arg2 := mergeBytes s.ticket.arg2 w }
  | .command => s
  | .notTaken => s

/-- The words of one write access, in ascending address order (R150). -/
def stageWords : Addr → List WordWrite → State → State
  | _, [], s => s
  | a, w :: ws, s => stageWords (a + 4) ws (stageWord a w s)

/-- The command word of a write access, where it writes it (R150). -/
def commandWord (wbase : Byte) : Addr → List WordWrite → Option WordWrite
  | _, [] => none
  | a, w :: ws => if ticketPlace wbase a = .command then some w else commandWord wbase (a + 4) ws

/-! ## Taking a command (R163) -/

/-- A taken command is answered BUSY while a CLOSE or RETIRE is pending, else by its own rule (R163, R165). The check
field of a LOAD answered BUSY is 0 (DESIGN CHOICE, log 24). -/
def takeCommand (code tag : Byte) (f : Byte → State → State) (s : State) : State :=
  match s.ticket.waiting with
  | some p => answer code tag .busy 0 (p.kind.code.setWidth 32) s
  | none => f tag s

/-- A number as a detail. -/
def detailOf (n : Nat) : Word := BitVec.ofNat 32 n

/-- The job state as a detail (R194). -/
def jobDetail (s : State) : Word := detailOf s.ctl.job.code

/-- The store state as a detail (R194). -/
def storeDetail (s : State) : Word := detailOf (storeStateCode s.store)

/-- The queue level as a detail. -/
def levelDetail (s : State) : Word := detailOf (queueLevel s)

/-! ## The checks of LOAD (R156 to R159, R146) -/

/-- The sum of the staged words, carries out of bit 31 discarded (R156). -/
def ticketSum (ws : List Word) : Word := ws.foldl (· + ·) 0

/-- Whether the word at H'004 holds an out-of-range field (R157, section 11.3.1). -/
def badHeader1 (w : Word) : Bool :=
  field w 1 0 == 0 || decide (2 ≤ field w 3 2) || decide (5 ≤ field w 6 4) || field w 11 8 == 0 ||
    field w 17 12 == 0 || decide (48 < field w 17 12)

/-- Whether the word at H'008 holds an out-of-range field: L, or D against the same ticket's L. -/
def badHeader2 (w : Word) : Bool :=
  decide (field w 15 0 < 16) || field w 31 16 == 0 || decide (field w 15 0 ≤ field w 31 16)

/-- Whether a stream descriptor's first word holds an out-of-range field (R157). -/
def badStream0 (w : Word) : Bool :=
  flag w 0 && (field w 5 4 == 3 || (field w 5 4 != 2 && (stepOf (field w 20 16) == 0 || stepOf (field w 20 16) == -16)))

/-- Whether a stream descriptor's K is out of range (R157). -/
def badStream1 (w0 w1 : Word) : Bool := flag w0 0 && field w0 5 4 == 1 && field w1 15 0 == 0

/-- Whether a ply descriptor's word holds an out-of-range field (R157). -/
def badPly (w : Word) : Bool :=
  flag w 0 && (field w 13 8 == 0 || decide (8 < field w 19 16) || field w 26 24 == 0 || decide (4 < field w 26 24))

/-- The tested words in ascending offset order, each with whether it fails (R157). -/
def rangeTests (ws : List Word) : List (Nat × Bool) :=
  let w := stagedWord ws
  [(1, badHeader1 (w 1)), (2, badHeader2 (w 2))] ++
  (fours.map fun s => [(16 + 16 * s.val, badStream0 (w (16 + 16 * s.val))),
    (17 + 16 * s.val, badStream1 (w (16 + 16 * s.val)) (w (17 + 16 * s.val)))]).flatten ++
  plies.map fun k => (80 + 8 * k.val, badPly (w (80 + 8 * k.val)))

/-- A refusal of LOAD: the failing check, the result and the detail. -/
abbrev LoadRefusal := BitVec 3 × ResultCode × Word

/-- The fourth check on ply k (R158). -/
def tallyStreamMissing (t : Ticket) (k : Ply) : Bool :=
  (t.plies.get k).enabled && (t.plies.get k).tally && !(t.streams.get (t.plies.get k).tallyStream).active

/-- The fifth check on stream s (R158). -/
def runDisagrees (t : Ticket) (s : StreamId) : Bool :=
  let d := t.streams.get s
  d.active && d.mode != .fixed && (if 0 < d.step then decide (d.last.toNat < d.first.toNat)
    else decide (d.first.toNat < d.last.toNat))

/-- The sixth check on stream s (R158). The descriptor of an inactive stream is not used. -/
def mayNotBook (t : Ticket) (s : StreamId) : Bool :=
  let d := t.streams.get s
  d.active && d.book != 0 && (d.mode == .fixed || (d.mode == .everyK && decide (1 < d.k)))

/-- The books without a row that the booked streams up to s name (R146). -/
def newBooks (t : Ticket) (st : Store) (s : StreamId) : Nat :=
  (fours.filter fun i => decide (i.val ≤ s.val) && t.booked i && (st.row (t.streams.get i).book).isNone).length

/-- The seventh check on a booked stream: the first test it fails (R146). -/
def bookTest (t : Ticket) (st : Store) (s : StreamId) : Option ResultCode :=
  let d := t.streams.get s
  if !t.booked s then none
  else if fours.any fun i => decide (i.val < s.val) && t.booked i && (t.streams.get i).book == d.book then
    some .bookShared
  else match st.row d.book with
    | some r =>
      if r.dir ≠ d.dir then some .bookDirection
      else if r.empty = false ∧ beyond d.dir d.first r.high = false then some .bookOverlap
      else none
    | none => if Config.bookCapacity - st.table.length < newBooks t st s then some .bookTableFull else none

/-- The seventh check (R146). -/
def bookCheck (t : Ticket) (st : Store) : Option LoadRefusal :=
  if recoveryEnded st = false then some (7, .storeUnavailable, detailOf (storeStateCode st))
  else if (match st.phase with | .failed _ => true | _ => false) && fours.any t.booked then
    some (7, .storeUnavailable, detailOf (storeStateCode st))
  else fours.findSome? fun s => (bookTest t st s).map fun r => (7, r, detailOf s.val)

/-- The seven checks in order: the first that fails (R155 to R159). -/
def loadCheck (ws : List Word) (st : Store) : Option LoadRefusal :=
  let t := ticketOf ws
  if ticketSum ws ≠ 0 then some (1, .ticketCheck, ticketSum ws)
  else match (rangeTests ws).find? (·.2) with
    | some x => some (2, .ticketRange, detailOf (4 * x.1))
    | none =>
      if t.plies.toList.all fun p => !p.enabled then some (3, .noPly, 0)
      else match plies.find? (tallyStreamMissing t) with
        | some k => some (4, .ticketRange, detailOf (k.val + 1))
        | none =>
          match fours.find? (runDisagrees t) with
          | some i => some (5, .ticketRange, detailOf i.val)
          | none =>
            match fours.find? (mayNotBook t) with
            | some i => some (6, .ticketRange, detailOf i.val)
            | none => bookCheck t st

/-! ## The eleven commands -/

/-- A receiver at the acceptance of LOAD: on, in HUNT, with an empty assembly and its counts as they stand (R71). -/
def Receiver.turnedOn (r : Receiver) : Receiver := { r with line := .hunt, assembly := .empty }

/-- The acceptance of a ticket (R160). -/
def acceptLoad (s : State) : State :=
  let t := ticketOf s.ticket.staged
  let s := s.setStreams (loadStreams t s.streams)
  let s := s.setPipe { s.pipe with pitchCount := 0, opened := 0, reserveWait := 0 }
  let s := s.setTally (s.tally.map Receiver.turnedOn)
  let s := s.setSpoil { s.spoil with zones := .const 0, remakes := [], good := 0, void := 0, remade := 0, blank := 0,
                                     gate := true }
  let s := clearEncoder s
  let s := s.setCtl { s.ctl with job := .ready, command := false, fault := false,
                                 snapshot := { s.ctl.snapshot with valid := false } }
  chooseIfLeft s (setSettings (some t) s)

/-- LOAD (R155). The check field of a LOAD answered STATE is 0 (DESIGN CHOICE, log 24). -/
def loadCommand (tag : Byte) (s : State) : State :=
  if s.ctl.job ≠ .idle then answer 1 tag .state 0 (jobDetail s) s
  else match loadCheck s.ticket.staged s.store with
    | some r => answer 1 tag r.2.1 r.1 r.2.2 s
    | none => answer 1 tag .done 0 0 (acceptLoad s)

/-- The lowest-numbered active stream that is EXHAUSTED (R116). -/
def exhaustedStream (s : State) : Option StreamId :=
  match s.ticket.active with
  | some t => t.activeStreams.find? fun i => (streamAt s i).status == .exhausted
  | none => none

/-- START accepted (R116, R43, R110, R15, R121). -/
def acceptStart (s : State) : State :=
  let s := (s.setEntries (List.replicate (gateDistOf s) .blank)).setJob .run
  let s := clearEncoder s
  let s := match s.ticket.active with
    | some t => startReservations t s
    | none => s
  holdTest s

/-- START (R116). -/
def startCommand (tag : Byte) (s : State) : State :=
  if s.ctl.job ≠ .ready then answer 2 tag .state 0 (jobDetail s) s
  else match firstHaltInput s with
    | some n => answer 2 tag .linesActive 0 (detailOf n.val) s
    | none =>
      if queueCause s then answer 2 tag .queueHigh 0 (levelDetail s) s
      else match (if s.spoil.remakes = [] then exhaustedStream s else none) with
        | some i => answer 2 tag .exhausted 0 (detailOf i.val) s
        | none => answer 2 tag .done 0 0 (acceptStart s)

/-- Both hold cause flags clear (R121). -/
def clearCauses (s : State) : State := s.setCtl { s.ctl with command := false, fault := false }

/-- STOP (R117). -/
def stopCommand (tag : Byte) (s : State) : State :=
  match s.ctl.job with
  | .run => settle (answer 3 tag .done 0 0 (enterDrain s))
  | .hold => settle (answer 3 tag .done 0 0 (enterDrain (clearCauses s)))
  | .halted => settle (answer 3 tag .done 0 0 (enterDrain (clearCauses s)))
  | .drain => answer 3 tag .done 0 0 s
  | _ => answer 3 tag .state 0 (jobDetail s) s

/-- HOLD (R118). -/
def holdCommand (tag : Byte) (s : State) : State :=
  match s.ctl.job with
  | .run => settle (answer 4 tag .done 0 0 (enterHold (s.setCtl { s.ctl with command := true })))
  | .hold => answer 4 tag .done 0 0 s
  | _ => answer 4 tag .state 0 (jobDetail s) s

/-- RESUME accepted (R119, R121). -/
def acceptResume (s : State) : State := holdTest ((clearCauses s).setJob .run)

/-- The input that refuses RESUME: HOLDREQ in HOLD, a break or jam in HALTED (R119). -/
def resumeBlock (s : State) : Option (Fin 18) :=
  match s.ctl.job with
  | .hold => if s.lines.holdreq then some inHoldreq else none
  | .halted => firstHaltInput s
  | _ => none

/-- RESUME (R119). -/
def resumeCommand (tag : Byte) (s : State) : State :=
  if s.ctl.job ≠ .hold ∧ s.ctl.job ≠ .halted then answer 5 tag .state 0 (jobDetail s) s
  else match resumeBlock s with
    | some n => answer 5 tag .linesActive 0 (detailOf n.val) s
    | none =>
      if queueCause s then answer 5 tag .queueHigh 0 (levelDetail s) s
      else answer 5 tag .done 0 0 (acceptResume s)

/-- One entry voided by ABORT: a SET entry's record with ABORT added, counted (R102). -/
def abortEntry (s : State) (e : Entry) : State :=
  match e with
  | .set x => pushRecord (x.record .void Cause.abort.bit) (s.setSpoil { s.spoil with void := satSucc s.spoil.void })
  | _ => s

/-- ABORT accepted: every SET entry voided, highest position first, then READY (R120, R44, R102). -/
def acceptAbort (s : State) : State :=
  let s := blankPending s
  enterReady (s.pipe.entries.reverse.foldl abortEntry s)

/-- ABORT (R120). -/
def abortCommand (tag : Byte) (s : State) : State :=
  if s.ctl.job = .hold ∨ s.ctl.job = .halted ∨ s.ctl.job = .drain then
    settle (answer 6 tag .done 0 0 (acceptAbort s))
  else answer 6 tag .state 0 (jobDetail s) s

/-- One entry of the remake list voided by CLOSE (R187). -/
def unmadeEntry (s : State) (x : RemakeEntry) : State :=
  pushRecord (.ofSet .void x.serial x.attempt s.pipe.pitchCount (x.causes ||| Cause.closeUnmade.bit) x.plies x.values)
    (s.setSpoil { s.spoil with void := satSucc s.spoil.void })

/-- The remake list emptied, oldest first (R187). -/
def closeRemakes (s : State) : State :=
  let l := s.spoil.remakes
  l.foldl unmadeEntry (s.setSpoil { s.spoil with remakes := [] })

/-- The stream SUMMARY of a stream (R188). -/
def streamSummary (s : State) (i : StreamId) : Record :=
  let x := streamAt s i
  .stream i s.pipe.pitchCount x.firstDrawn x.lastDrawn x.valuesDrawn s.spoil.good s.spoil.void s.spoil.remade

/-- The job SUMMARY (R188). -/
def jobSummary (s : State) : Record :=
  .job s.pipe.pitchCount s.pipe.opened s.spoil.good s.spoil.void s.spoil.blank s.pipe.reserveWait

/-- The SUMMARY records, one for each active stream and one for the job (R188). -/
def pushSummaries (t : Ticket) (s : State) : State :=
  pushRecords (t.activeStreams.map (streamSummary s) ++ [jobSummary s]) s

/-- The close append of a booked stream asked of the store (R189, R22, R133). -/
def askClose (t : Ticket) (told : State → State) (i : StreamId) (s : State) : State :=
  let d := t.streams.get i
  let x := streamAt s i
  if refuses s.store then told (closeFailed i d.book s)
  else joinTelling told (.closeAppend i d.book d.dir (if x.drawn then some x.lastDrawn else none)) s

/-- The close appends asked of the store in stream order (R189). CLOSE cannot end before it has asked for the last
(R191; log 14). -/
def askCloses (t : Ticket) : List StreamId → State → State
  | [], s => closeIfDone s
  | [i], s => askClose t closeIfDone i s
  | i :: j :: rest, s => askCloses t (j :: rest) (askClose t id i s)

/-- CLOSE accepted (R187 to R189). -/
def acceptClose (tag : Byte) (s : State) : State :=
  let s := answer 7 tag .pending 0 0 (s.setJob .closing)
  let s := s.setTicket { s.ticket with
    waiting := some { kind := .close, tag, echo1 := s.ticket.arg1, echo2 := s.ticket.arg2, failed := none } }
  let s := closeRemakes s
  chooseIfLeft s (match s.ticket.active with
    | some t => askCloses t (fours.filter t.booked) (pushSummaries t s)
    | none => closeIfDone s)

/-- CLOSE (R186). -/
def closeCommand (tag : Byte) (s : State) : State :=
  if s.ctl.job ≠ .ready then answer 7 tag .state 0 (jobDetail s) s
  else if queueCause s then answer 7 tag .queueHigh 0 (levelDetail s) s
  else acceptClose tag s

/-- Whether an entry is the SET entry with a serial, whatever its attempt (R90). -/
def Entry.hasSerial (n : Word) : Entry → Bool
  | .set e => e.serial == n
  | _ => false

/-- SPOIL of a serial found at position p (R90). -/
def acceptSpoil (n : Word) (p : Nat) (s : State) : State :=
  raise .operatorSpoil 0 n (markAt p .operator none s)

/-- SPOIL (R90). -/
def spoilCommand (tag : Byte) (s : State) : State :=
  let n := s.ticket.arg1
  if s.ctl.job = .idle then answer 8 tag .state 0 0 s
  else if n = 0 ∨ s.pipe.opened.toNat < n.toNat then answer 8 tag .notFound 0 0 s
  else match s.pipe.entries.findIdx? (Entry.hasSerial n) with
    | some p => settle (answer 8 tag .done 0 (detailOf p) (acceptSpoil n p s))
    | none => answer 8 tag .tooLate 0 0 s

/-- RETIRE accepted: its request queued, the command pending (R147, R165). -/
def acceptRetire (tag : Byte) (s : State) : State :=
  let book := s.ticket.arg1
  let s := answer 9 tag .pending 0 0 s
  let s := s.setTicket { s.ticket with
    waiting := some { kind := .retire, tag, echo1 := s.ticket.arg1, echo2 := s.ticket.arg2, failed := none } }
  joinQueue (.retire book) s

/-- RETIRE (R147). -/
def retireCommand (tag : Byte) (s : State) : State :=
  let book := s.ticket.arg1
  if s.ctl.job ≠ .idle then answer 9 tag .state 0 (jobDetail s) s
  else if inputActive s inKeysvc = false then answer 9 tag .serviceOff 0 0 s
  else if (match s.store.phase with | .inService => false | _ => true) then
    answer 9 tag .storeUnavailable 0 (storeDetail s) s
  else if book = 0 then answer 9 tag .notFound 0 0 s
  else match s.store.row book with
    | none => answer 9 tag .notFound 0 0 s
    | some r =>
      if r.opened then answer 9 tag .state 0 (jobDetail s) s
      else if refuses s.store then answer 9 tag .storeUnavailable 0 (storeDetail s) s
      else acceptRetire tag s

/-- ACK clears the flags its mask names (R180, R166). -/
def ackCommand (tag : Byte) (s : State) : State :=
  answer 10 tag .done 0 0 (s.setReport { s.report with flags := s.report.flags &&& ~~~(s.ticket.arg1.setWidth 17) })

/-- CLEAR_HISTORY empties the history (R181, R166). -/
def clearHistoryCommand (tag : Byte) (s : State) : State :=
  answer 11 tag .done 0 0 (s.setReport { s.report with slots := List.replicate 16 none, head := 0, total := 0 })

/-- A code that is no command (R163). -/
def unknownAnswer (code tag : Byte) (s : State) : State := answer code tag .unknown 0 (code.setWidth 32) s

/-- The command of a code (R194, R163). -/
def commandOf (code : Byte) : Byte → State → State :=
  if code = 1 then loadCommand
  else if code = 2 then startCommand
  else if code = 3 then stopCommand
  else if code = 4 then holdCommand
  else if code = 5 then resumeCommand
  else if code = 6 then abortCommand
  else if code = 7 then closeCommand
  else if code = 8 then spoilCommand
  else if code = 9 then retireCommand
  else if code = 10 then ackCommand
  else if code = 11 then clearHistoryCommand
  else unknownAnswer code

/-! ## Write accesses -/

/-- One partial command write more (R162). -/
def countPartial (s : State) : State := s.setTicket { s.ticket with partials := s.ticket.partials + 1 }

/-- A command word written: with all four byte enables its command is taken, else the write is counted (R162). Bits
31:16 are not read (R196). -/
def writeCommandWord (c : WordWrite) (s : State) : State :=
  if c.enables = 15 then takeCommand (c.data.setWidth 8) (c.data.extractLsb' 8 8)
    (commandOf (c.data.setWidth 8)) s
  else countPartial s

/-- A write access of the press controller: it passes downstream; outside a reset its words are staged, and then its
command word, if it writes it, is taken (R48, R50, R51, R150). -/
def writeAccess (addr : Addr) (words : List WordWrite) (s : State) : State :=
  let s := passDown controllerId { addr, body := .write words } s
  if s.resetting then s
  else
    let s := stageWords addr words s
    match commandWord s.path.wbase addr words with
    | some c => writeCommandWord c s
    | none => s

/-- The words of a burst that begins at the command word. -/
def commandBurst (c : WordWrite) (arg1 arg2 : Option WordWrite) : List WordWrite := c :: (arg1.toList ++ arg2.toList)

/-- The address of the command word, H'400 of the window (R150). -/
def commandAddr (s : State) : Addr := windowBase s.path.wbase + 0x400

/-- The command word of a full write of a code. -/
def CommandWrite.word (code : Byte) (w : CommandWrite) : WordWrite :=
  { data := w.upper ++ w.tag ++ code, enables := 15 }

/-- A full write of the command word with a code: the argument words of the burst are staged first, then the command is
taken (R150, R162). -/
def writeCommand (code : Byte) (f : Byte → State → State) (w : CommandWrite) (s : State) : State :=
  let ws := commandBurst (CommandWrite.word code w) w.arg1 w.arg2
  let s := passDown controllerId { addr := commandAddr s, body := .write ws } s
  if s.resetting then s else takeCommand code w.tag f (stageWords (commandAddr s) ws s)

/-! ## Meanings -/

/-- LOAD (R155). -/
def execLoad (w : CommandWrite) (s : State) : Host.Outcome State Fault Refusal :=
  .next (writeCommand 1 loadCommand w (begin s))

/-- START (R116). -/
def execStart (w : CommandWrite) (s : State) : Host.Outcome State Fault Refusal :=
  .next (writeCommand 2 startCommand w (begin s))

/-- STOP (R117). -/
def execStop (w : CommandWrite) (s : State) : Host.Outcome State Fault Refusal :=
  .next (writeCommand 3 stopCommand w (begin s))

/-- HOLD (R118). -/
def execHold (w : CommandWrite) (s : State) : Host.Outcome State Fault Refusal :=
  .next (writeCommand 4 holdCommand w (begin s))

/-- RESUME (R119). -/
def execResume (w : CommandWrite) (s : State) : Host.Outcome State Fault Refusal :=
  .next (writeCommand 5 resumeCommand w (begin s))

/-- ABORT (R120). -/
def execAbort (w : CommandWrite) (s : State) : Host.Outcome State Fault Refusal :=
  .next (writeCommand 6 abortCommand w (begin s))

/-- CLOSE (R186). -/
def execClose (w : CommandWrite) (s : State) : Host.Outcome State Fault Refusal :=
  .next (writeCommand 7 closeCommand w (begin s))

/-- SPOIL (R90). -/
def execSpoil (w : CommandWrite) (s : State) : Host.Outcome State Fault Refusal :=
  .next (writeCommand 8 spoilCommand w (begin s))

/-- RETIRE (R147). -/
def execRetire (w : CommandWrite) (s : State) : Host.Outcome State Fault Refusal :=
  .next (writeCommand 9 retireCommand w (begin s))

/-- ACK (R180). -/
def execAck (w : CommandWrite) (s : State) : Host.Outcome State Fault Refusal :=
  .next (writeCommand 10 ackCommand w (begin s))

/-- CLEAR_HISTORY (R181). -/
def execClearHistory (w : CommandWrite) (s : State) : Host.Outcome State Fault Refusal :=
  .next (writeCommand 11 clearHistoryCommand w (begin s))

/-- UNKNOWN_COMMAND (R163): a code that is a command is taken as that command. -/
def execUnknownCommand (code : Byte) (w : CommandWrite) (s : State) : Host.Outcome State Fault Refusal :=
  .next (writeCommand code (commandOf code) w (begin s))

/-- PARTIAL_COMMAND_WRITE (R162): the rest of the access is staged, no command is taken. -/
def execPartialCommandWrite (c : WordWrite) (arg1 arg2 : Option WordWrite) (s : State) :
    Host.Outcome State Fault Refusal :=
  .next (writeAccess (commandAddr s) (commandBurst c arg1 arg2) (begin s))

/-- STAGING_WRITE (R151). -/
def execStagingWrite (addr : Addr) (words : List WordWrite) (s : State) : Host.Outcome State Fault Refusal :=
  .next (writeAccess addr words (begin s))

end Sys2Proof.Machine
end

