-- ==== Sys2Proof/Machine/ReportView.lean ====
section
/-! DEFINITION. Machine/ReportView.lean: the overlay of the report area (R176, R177, R197): every word of section 11.4,
made up from the state at the moment it is read. -/

namespace Sys2Proof.Machine

/-! ## Building a word -/

/-- A number placed with its lowest bit at bit `lo`. -/
def put (n lo : Nat) : Word := BitVec.ofNat 32 (n * 2 ^ lo)

/-- A flag placed at bit `n`. -/
def putFlag (b : Bool) (n : Nat) : Word := if b then put 1 n else 0

/-- The code of a single fault kind: its number plus 1, 0 for NONE (R194). -/
def kindCode : Option FaultKind → Nat
  | some k => k.num + 1
  | none => 0

/-! ## Status, command result, flags and lines (section 11.4.2) -/

def statusWord0 (s : State) : Word :=
  put s.ctl.job.code 0 ||| putFlag s.ctl.command 4 ||| putFlag s.ctl.fault 5 ||| putFlag s.lines.holdreq 6 |||
  putFlag (queueCause s) 7 ||| put ((s.ticket.active.map fun t => t.policy.code).getD 0) 8 |||
  putFlag s.ticket.waiting.isSome 10 ||| putFlag s.ctl.snapshot.valid 11 ||| put s.ticket.partials.toNat 16 |||
  put s.spoil.remakes.length 24

def statusWord2 (s : State) : Word :=
  put ((s.ticket.waiting.map fun p => p.kind.code.toNat).getD 0) 0 |||
  put ((s.ticket.waiting.map fun p => p.tag.toNat).getD 0) 8 ||| put (queueLevel s) 16

def statusWords (s : State) : List Word :=
  [statusWord0 s, (s.ticket.active.map (·.jobId)).getD 0, statusWord2 s]

def resultWords (s : State) : List Word :=
  let r := s.ticket.result
  [put r.code.toNat 0 ||| put r.tag.toNat 8 ||| put r.result.code 16 ||| put r.check.toNat 24, r.detail, r.echo1,
    r.echo2]

/-- The five outputs (R94, R124, R182, R183). -/
def outputsWord (s : State) : Word :=
  putFlag s.spoil.gate 0 ||| putFlag (pressHold s) 1 ||| putFlag (estop s) 2 ||| putFlag (faultOut s) 3 |||
  putFlag (attnOut s) 4

def lineWords (s : State) : List Word :=
  [sampledInputs.foldl (fun w n => w ||| putFlag (level s n) n.val) 0,
    sampledInputs.foldl (fun w n => w ||| putFlag (inputActive s n) n.val) 0, outputsWord s]

/-! ## Counts, streams and plies (section 11.4.3) -/

def countWords (s : State) : List Word :=
  [s.pipe.pitchCount, s.pipe.opened, s.pipe.reserveWait, s.spoil.good, s.spoil.void, s.spoil.remade, s.spoil.blank,
    s.timer.makeReady, s.lines.glitches, s.timer.earlyCues]

def streamView (x : StreamState) : List Word :=
  [put x.status.code 0 ||| putFlag x.limit.isSome 4 ||| putFlag x.inFlight 5 ||| putFlag x.drawn 6 ||| put x.u.toNat 16,
    x.v, x.limit.getD 0, x.requested, x.firstDrawn, x.lastDrawn, x.valuesDrawn, 0]

def streamWords (s : State) : List Word := (fours.map fun i => streamView (streamAt s i)).flatten

def plyView (f : Feeder) (r : Receiver) : List Word :=
  [put f.slotReads.toNat 0 ||| put f.strays.toNat 8 ||| put r.reports.toNat 16 ||| put r.malformed.toNat 24,
    put r.ignored.toNat 0]

def plyWords (s : State) : List Word := (plies.map fun k => plyView (feeder s k) (s.tally.get k)).flatten

/-! ## The disposition view (R173, section 11.4.4) -/

def SetKind.code : SetKind → Nat
  | .good => 1 | .void => 2 | .remake => 3 | .proofGood => 4 | .proofVoid => 5

/-- The stream mask: the streams whose values a record holds (R171, R194). -/
def streamMask (v : Values) : Nat := (fours.map fun i => if (v.get i).isSome then 2 ^ i.val else 0).sum

/-- The value of a stream in a record, 0 where it holds none (R171). -/
def recordValue (v : Values) (i : StreamId) : Word := (v.get i).getD 0

/-- The eight words of a record (section 11.4.4). -/
def recordWords : Record → List Word
  | .ofSet kind serial attempt stamp causes plies values =>
    [put kind.code 0 ||| put attempt.toNat 4 ||| put (streamMask values) 8 ||| put plies.toNat 12, serial, stamp,
      causes.setWidth 32, recordValue values 0, recordValue values 1, recordValue values 2, recordValue values 3]
  | .recovery book high => [put 6 0, book, 0, high, 0, 0, 0, 0]
  | .stream i stamp first last drawn good void remade =>
    [put 7 0 ||| put i.val 20, first, stamp, last, drawn, good, void, remade]
  | .job stamp opened good void blank reserveWait =>
    [put 7 0 ||| put 4 20, opened, stamp, good, void, blank, reserveWait, 0]

/-- The head record's words, zeros for an empty queue (R173). -/
def dispositionWords (s : State) : List Word :=
  match s.report.queue with
  | r :: _ => recordWords r
  | [] => List.replicate 8 0

/-! ## Halt snapshot and fault history (sections 11.4.5 and 11.4.6) -/

def snapshotWords (s : State) : List Word :=
  let x := s.ctl.snapshot
  [putFlag x.valid 0 ||| put x.prev.code 4 ||| put (kindCode x.kind) 8 ||| put x.ply.toNat 16, x.stamp, x.serial] ++
  x.serials.toList ++
  [(plies.map fun k => put (x.images.get k).code (2 * k.val)).foldl (· ||| ·) 0, x.serialC, x.serialG]

def historyHeadWord (s : State) : Word := put s.report.head.toNat 0 ||| put s.report.total.toNat 16

def historyView : Option HistoryEntry → List Word
  | some e => [put (kindCode (some e.kind)) 0 ||| put e.ply.toNat 8, e.serial, e.stamp, 0]
  | none => [0, 0, 0, 0]

def historyWords (s : State) : List Word := (s.report.slots.map historyView).flatten

/-! ## The store view (R149, section 11.4.7) -/

def FailCause.code : FailCause → Nat
  | .sectors => 1
  | .worn => 2

def StorePhase.causeCode : StorePhase → Nat
  | .failed c => c.code
  | .recovering => 0
  | .inService => 0

def operationCode : Option Operation → Nat
  | none => 0
  | some (.append ..) => 1
  | some (.step ..) => 1
  | some (.erase _) => 2

/-- A sector number, or 4 where there is none (R197). -/
def sectorCode : Option SectorId → Nat
  | some i => i.val
  | none => 4

def storeWords (s : State) : List Word :=
  let st := s.store
  [put (storeStateCode st) 0 ||| put st.phase.causeCode 2 ||| putFlag (recoveryEnded st) 4 |||
      put (operationCode st.op) 8 ||| put (sectorCode st.active) 12 |||
      put (sectorCode (st.compaction.map (·.target))) 16,
    (fours.map fun i => put (st.sectors.get i).code (4 * i.val)).foldl (· ||| ·) 0,
    put st.activeFree 0 ||| put st.queue.length 16 ||| put st.table.length 24,
    st.activeGeneration, st.lastSeq]

/-! ## The map (section 11.4.1) -/

/-- The offset of the POP word (R174). -/
def popOffset : Nat := 0x81E0

/-- The views, each with the offset of its first word, and its words in ascending order. -/
def views (s : State) : List (Nat × List Word) :=
  [(0x8000, statusWords s), (0x8040, resultWords s), (0x8060, [s.report.flags.setWidth 32]), (0x8080, lineWords s),
    (0x80C0, countWords s), (0x8100, streamWords s), (0x8180, plyWords s), (0x81C0, dispositionWords s),
    (popOffset, [put (queueLevel s) 0]), (0x8200, snapshotWords s), (0x8240, [historyHeadWord s]),
    (0x8280, historyWords s), (0x8400, storeWords s)]

/-- The word the report block supplies at an offset from the window base; 0 for a word that belongs to no view
(R176, R197). -/
def reportWord (s : State) (off : Nat) : Word :=
  ((views s).findSome? fun v => if v.1 ≤ off then v.2[(off - v.1) / 4]? else none).getD 0

end Sys2Proof.Machine
end

