-- ==== Sys2Proof/Machine/Accesses.lean ====
section
/-! DEFINITION. Machine/Accesses.lean: what passes the path unit for the press controller's reads and the head feeders
(R48 to R55, R174), and the expiry of a bind wait (R69). -/

namespace Sys2Proof.Machine

/-! ## Press-controller reads (R50, R54, R174, R176) -/

/-- The POP of a read: the head record leaves a queue that is not empty (R174). -/
def popRecord (s : State) : State := s.setReport { s.report with queue := s.report.queue.drop 1 }

/-- One word of a press-controller read response: the word returned, and the state the words above it see
(R54, R174, R176). -/
def overlayWord (a : Addr) (w : Word) (s : State) : Word × State :=
  match regionOf s.path.wbase a with
  | .reportArea off => (reportWord s off, if off = popOffset then popRecord s else s)
  | .ticketArea _ => (w, s)
  | .slot _ _ => (w, s)
  | .outside => (w, s)

/-- The words of a press-controller read response in ascending address order (R174). -/
def overlayWords : Addr → List Word → State → List Word × State
  | _, [], s => ([], s)
  | a, w :: ws, s =>
    let r := overlayWord a w s
    let rest := overlayWords (a + 4) ws r.2
    (r.1 :: rest.1, rest.2)

/-- A read response to the press controller, sent upstream with its status unchanged (R48, R50). -/
def controllerResponse (r : Response) (s : State) : State :=
  if s.resetting then sendUp controllerId r s
  else
    let out := overlayWords r.addr r.words s
    sendUp controllerId { r with words := out.1 } out.2

/-! ## Meanings -/

/-- POP_WORD_READ (R174). -/
def execPopWordRead (r : Response) (s : State) : Host.Outcome State Fault Refusal :=
  .next (controllerResponse r (begin s))

/-- HEAD_FEEDER_ACCESS: the access passes downstream and, outside a reset, is counted (R48, R51, R55). -/
def execHeadFeederAccess (k : Ply) (a : Access) (s : State) : Host.Outcome State Fault Refusal :=
  .next (
    let s := passDown (feederId k) a (begin s)
    if s.resetting then s else countAccess k a s)

/-- A response of feeder k joins that requester's order and is taken or held when it reaches the head; one that finds the
order empty is at the head, not held yet (R49, R50). -/
def receiveResponse (k : Ply) (r : Response) (s : State) : State :=
  let f := feeder s k
  settle (setFeeder k (match f.queue with
    | [] => { f with queue := [r], held := false, timer := none }
    | _ :: _ => { f with queue := f.queue ++ [r] }) s)

/-- READ_RESPONSE (R50). While the RESET line is held it passes unaltered (R51). -/
def execReadResponse (k : Ply) (r : Response) (s : State) : Host.Outcome State Fault Refusal :=
  .next (
    let s := begin s
    if s.resetting then sendUp (feederId k) r s else receiveResponse k r s)

/-- Whether feeder k's bind-wait timer runs on a PENDING entry (R67, R69). -/
def waitRuns (s : State) (k : Ply) : Bool :=
  !s.resetting && (feeder s k).held && (feeder s k).timer.isSome && pendingAtZero s

/-- BIND_WAIT_EXPIRY (R69). -/
def execBindWaitExpiry (k : Ply) (s : State) : Host.Outcome State Fault Refusal :=
  .next (
    let s := begin s
    if waitRuns s k then settle (bindExpire k s) else s)

end Sys2Proof.Machine
end

