-- ==== Sys2Proof/Machine/Pitch.lean ====
section
/-! DEFINITION. Machine/Pitch.lean: the pitch timer: encoder edges (R110), pitch, cue and synthetic pitch events (R111 to
R114) and deadline events (R41, R111, R112). -/

namespace Sys2Proof.Machine

/-! ## The encoder count (R110) -/

/-- An ENC edge of the selected kind, while ENC is enabled, adds 1 (R110). -/
def countEncoder (rising : Bool) (s : State) : State :=
  if (setting s inEnc).enabled && (rising != (setting s inEnc).inverted) then
    s.setTimer { s.timer with encoder := satSucc s.timer.encoder }
  else s

/-! ## When the count brings an event about (R111 to R113) -/

/-- Under COUNT source the count has reached L (R111). -/
def pitchDue (t : Ticket) (count : Nat) : Bool := t.source == .count && decide (t.formLength ≤ count)

/-- The lost-cue limit, the smallest whole number at or above 5L/4 (R113). -/
def lostLimit (t : Ticket) : Nat := (5 * t.formLength + 3) / 4

/-- Under CUE source the count has reached the lost-cue limit (R113). -/
def lostDue (t : Ticket) (count : Nat) : Bool := t.source == .cue && decide (lostLimit t ≤ count)

/-- The count has reached D and the interval's deadline event has not been made (R111, R112). -/
def deadlineDue (t : Ticket) (m : PitchTimer) : Bool := !m.deadlineMade && decide (t.deadline ≤ m.encoder.toNat)

/-- A cue is early when twice the count is less than L, a test not made while ENC is disabled (R112). -/
def cueEarly (t : Ticket) (s : State) : Bool :=
  (setting s inEnc).enabled && decide (2 * s.timer.encoder.toNat < t.formLength)

/-- A cue handed to the pitch timer (R111, R112, R114). -/
def takeCue (s : State) : State :=
  match s.ticket.active with
  | none => pitch [] s
  | some t =>
    match t.source with
    | .count => s
    | .cue =>
      if cueEarly t s then s.setTimer { s.timer with earlyCues := satSucc s.timer.earlyCues } else pitch [] s

/-- The deadline event, taken by the deadline check in the running states (R41, R114). -/
def deadline (t : Ticket) (s : State) : State :=
  let s := s.setTimer { s.timer with deadlineMade := true }
  if s.ctl.job.running then settle (deadlineCheck t s) else s

/-! ## Meanings -/

/-- ENC_EDGE (R110). While the RESET line is held no edge is counted. -/
def execEncEdge (rising : Bool) (s : State) : Host.Outcome State Fault Refusal :=
  .next (
    let s := begin s
    if s.resetting then s else countEncoder rising s)

/-- PITCH_EVENT (R111). -/
def execPitchEvent (s : State) : Host.Outcome State Fault Refusal :=
  .next (
    let s := begin s
    match s.ticket.active with
    | some t => if !s.resetting && pitchDue t s.timer.encoder.toNat then pitch [] s else s
    | none => s)

/-- CUE_EDGE (R112, R114). -/
def execCueEdge (s : State) : Host.Outcome State Fault Refusal := onEdge inCue takeCue s

/-- SYNTHETIC_PITCH_EVENT (R113). -/
def execSyntheticPitchEvent (s : State) : Host.Outcome State Fault Refusal :=
  .next (
    let s := begin s
    match s.ticket.active with
    | some t => if !s.resetting && lostDue t s.timer.encoder.toNat then pitch [(.cueLost, 0, 0)] s else s
    | none => s)

/-- DEADLINE_EVENT (R41, R111). -/
def execDeadlineEvent (s : State) : Host.Outcome State Fault Refusal :=
  .next (
    let s := begin s
    match s.ticket.active with
    | some t => if !s.resetting && deadlineDue t s.timer then deadline t s else s
    | none => s)

end Sys2Proof.Machine
end

