-- ==== Sys2Proof/Machine/Tally.lean ====
section
/-! DEFINITION. Machine/Tally.lean: the tally receivers (R72, R73), the completion of a report (R74, R75), its attribution
(R76) and its comparison (R77 to R80). -/

namespace Sys2Proof.Machine

def setReceiver (k : Ply) (r : Receiver) (s : State) : State := s.setTally (s.tally.set k r)

/-! ## The assembly (R72) -/

/-- What a character is to a receiver (R72). -/
inductive TallyChar where
  | digit (d : Fin 10)
  | query
  | lf
  | cr
  | other
deriving DecidableEq, Repr

/-- R72, section 11.5. -/
def charOf (b : Byte) : TallyChar :=
  let n := b.toNat
  if 0x30 ≤ n ∧ n ≤ 0x39 then .digit (Fin.ofNat 10 (n - 0x30))
  else if n = 0x3F then .query
  else if n = 0x0A then .lf
  else if n = 0x0D then .cr
  else .other

/-- A completed report (R74). -/
inductive TallyReport where
  | number (ds : List (Fin 10))
  | noRead
  | malformed
deriving DecidableEq, Repr

/-- The report an assembly completes at a CR; none for EMPTY (R72, R74). -/
def reportOf : Assembly → Option TallyReport
  | .empty => none
  | .digits ds => some (.number ds)
  | .query => some .noRead
  | .discard => some .malformed

/-- The assembly after a character with a high stop bit (R72). -/
def assemble (c : TallyChar) (a : Assembly) : Assembly :=
  match c with
  | .lf => a
  | .cr => .empty
  | .digit d =>
    match a with
    | .empty => .digits [d]
    | .digits ds => if ds.length < 11 then .digits (ds ++ [d]) else .discard
    | .query => .discard
    | .discard => .discard
  | .query =>
    match a with
    | .empty => .query
    | .digits _ => .discard
    | .query => .discard
    | .discard => .discard
  | .other => .discard

/-! ## The comparison (R77 to R80) -/

/-- The value of decimal digits, most significant first. Leading zeros do not take part, so value digits agree with a
value exactly when they have its number (R77). -/
def decimal (ds : List (Fin 10)) : Nat := ds.foldl (fun n d => 10 * n + d.val) 0

/-- Whether a number report matches a value under ply k's settings (R77 to R79). -/
def numberMatches (tallyCheck : Bool) (m : CheckMethod) (v : Word) (ds : List (Fin 10)) : Bool :=
  if tallyCheck then
    match ds.getLast? with
    | some c =>
      decide (2 ≤ ds.length) && decimal ds.dropLast == v.toNat && checkResult m v == some c.val
    | none => false
  else decimal ds == v.toNat

/-- The tally state the first report gives (R78, R79). -/
def verdict (t : Ticket) (k : Ply) (e : SetEntry) (r : TallyReport) : TallyState :=
  let p := t.plies.get k
  match r with
  | .number ds =>
    if numberMatches p.tallyCheck (t.streams.get p.tallyStream).check ((e.values.get p.tallyStream).getD 0) ds then
      .matched
    else .mismatch
  | .noRead => .noread
  | .malformed => .noread

/-- The mark and fault that go with a tally state (R78). -/
def tallyBlame : TallyState → Option (Cause × FaultKind)
  | .mismatch => some (.tallyMismatch, .tallyMismatch)
  | .noread => some (.tallyNoread, .tallyNoread)
  | .none => none
  | .matched => none
  | .missing => none

/-- A report compared with the SET entry at C: the entry after it, and the fault it raises (R78, R80). -/
def compareReport (t : Ticket) (k : Ply) (e : SetEntry) (r : TallyReport) : SetEntry × Option FaultKind :=
  if e.tally.get k = .none then
    let v := verdict t k e r
    let e' := { e with tally := e.tally.set k v }
    match tallyBlame v with
    | some (c, f) => (e'.mark c (some k), some f)
    | none => (e', none)
  else (e.mark .tallyDuplicate (some k), some .tallyDuplicate)

/-- The SET entry a report of ply k is compared with; none where the report is ignored (R76). -/
def attributed (t : Ticket) (k : Ply) (s : State) : Option SetEntry :=
  if s.ctl.job.running && (t.plies.get k).enabled && (t.plies.get k).tally then
    match entryAt s t.collator with
    | .set e => some e
    | _ => none
  else none

/-! ## The completion of a report (R74, R75) -/

/-- The counts of a completed report (R75). -/
def Receiver.count (r : Receiver) (malformed ignored : Bool) : Receiver :=
  { r with
    reports := r.reports + 1
    malformed := if malformed then r.malformed + 1 else r.malformed
    ignored := if ignored then r.ignored + 1 else r.ignored }

/-- The entry at C replaced by a SET entry. -/
def putAt (p : Nat) (e : SetEntry) (s : State) : State := s.setEntries (s.pipe.entries.modify p fun _ => .set e)

/-- A report completed by receiver k: counted, and compared where it is attributed (R74 to R80). -/
def completeReport (k : Ply) (r : TallyReport) (s : State) : State :=
  match s.ticket.active with
  | none => s
  | some t =>
    let target := attributed t k s
    let s := setReceiver k ((s.tally.get k).count (r == .malformed) target.isNone) s
    match target with
    | none => s
    | some e =>
      let c := compareReport t k e r
      let s := putAt t.collator c.1 s
      match c.2 with
      | some f => settle (raise f (plyNumber k) e.serial s)
      | none => s

/-- A character taken by a receiver in READY (R72). -/
def takeCharacter (k : Ply) (c : TallyChar) (s : State) : State :=
  let r := s.tally.get k
  let s := setReceiver k { r with assembly := assemble c r.assembly } s
  match c, reportOf r.assembly with
  | .cr, some rep => completeReport k rep s
  | _, _ => s

/-- A framing error (R73). -/
def framingError (k : Ply) (s : State) : State :=
  setReceiver k { s.tally.get k with assembly := .discard, line := .hunt } s

/-! ## Meanings -/

/-- TALLY_CHARACTER (R72, R73): only a receiver in READY takes a character. -/
def execTallyCharacter (k : Ply) (data : Byte) (stopHigh : Bool) (s : State) : Host.Outcome State Fault Refusal :=
  .next (
    let s := begin s
    if s.resetting || (s.tally.get k).line != .ready then s
    else if stopHigh then takeCharacter k (charOf data) s
    else framingError k s)

/-- TALLY_LINE_IDLE_SEEN (R72): a receiver in HUNT moves to READY. -/
def execTallyLineIdleSeen (k : Ply) (s : State) : Host.Outcome State Fault Refusal :=
  .next (
    let s := begin s
    if !s.resetting && (s.tally.get k).line == .hunt then setReceiver k { s.tally.get k with line := .ready } s
    else s)

end Sys2Proof.Machine
end

