-- ==== Sys2Proof/Machine/StoreEvents.lean ====
section
/-! DEFINITION. Machine/StoreEvents.lean: the completions of the number store's operations: an append (R135), a
compaction step (R138, R139) and an erase (R136), and what follows them (R130, R134, R137, R141, R144). -/

namespace Sys2Proof.Machine

/-- One slot programmed with its entry, sound where it verified (R128, R130). -/
def writeSlot (i : SectorId) (n : Nat) (x : Slot) (s : State) : State :=
  s.setStore (s.store.setArray i (Sector.program n x (s.store.array.get i)))

/-! ## The end of an operation -/

/-- The resource falls free, the notices given. An operation given the last sequence leaves the store FAILED; else recovery
may end and the next operation is chosen (R130, R134, R135, R144; log 14). The responses released follow. -/
def finishOperation (seq : Word) (s : State) : State :=
  let s := s.setStore { s.store with op := none }
  settle (if seq = Config.lastSequence then becomeFailed .worn s else chooseNext (endRecovery s))

/-! ## Appends (R135) -/

/-- The head request leaves the queue. -/
def popRequest (s : State) : State := s.setStore { s.store with queue := s.store.queue.drop 1, retried := false }

/-- An append that verifies: the row changes, the request leaves, its requester is told (R132, R135). -/
def appendDone (body : EntryBody) (s : State) : State :=
  let r := s.store.queue.head?
  let s := popRequest (s.setStore { s.store with table := tableAfter body s.store.table })
  match r with
  | some r => completionNotice r s
  | none => s

/-- An append that fails its verify for the second time: the request leaves, its requester is told, STORE_FAULT is raised
(R135). The failure of the last close append ends CLOSE before the fault (DESIGN CHOICE, log 16). -/
def appendFailed (s : State) : State :=
  let r := s.store.queue.head?
  let s := popRequest s
  raise .storeFault 0 0 (match r with
    | some r => failureNotice r s
    | none => s)

/-- What the verify of an append brings about (R135). -/
def appendVerified (body : EntryBody) (verified : Bool) (s : State) : State :=
  if verified then appendDone body s
  else if s.store.retried then appendFailed s
  else s.setStore { s.store with retried := true }

/-! ## Compaction steps (R138, R139) -/

/-- The compaction abandoned: its target becomes FULL (R139). -/
def abandon (c : Compaction) (st : Store) : Store :=
  { st.setSector c.target .full with compaction := none }

/-- The new header durable: the old ACTIVE sector becomes FULL, the target ACTIVE (R138). The wait of R137 has
ended. -/
def headerDone (c : Compaction) (st : Store) : Store :=
  let st := match st.active with
    | some a => st.setSector a .full
    | none => st
  { st.setSector c.target .active with compaction := none, fullWait := false }

/-- A copy that verifies is done (R138). -/
def copyDone (c : Compaction) (st : Store) : Store :=
  { st with compaction := some { c with todo := c.todo.drop 1, retried := false } }

/-- What the verify of a compaction step brings about (R138, R139). -/
def stepVerified (c : Compaction) (body : EntryBody) (verified : Bool) (st : Store) : Store :=
  match body with
  | .header _ => if verified then headerDone c st else abandon c st
  | _ =>
    if verified then copyDone c st
    else if c.retried then abandon c st
    else { st with compaction := some { c with retried := true } }

/-! ## Erases (R136) -/

/-- The sectors that are not BAD (R136). -/
def usable (st : Store) : Nat := (fours.filter fun i => st.sectors.get i != .bad).length

/-- The array and state of a sector after its erase (R136). -/
def eraseVerified (i : SectorId) (r : EraseResult) (st : Store) : Store :=
  match r with
  | .erased => (st.setArray i []).setSector i .erased
  | .failed kept torn => (st.setArray i (Sector.partErased kept torn (st.array.get i))).setSector i .bad

/-- What follows an erase: FAILED where it failed and fewer than two sectors are usable, else the next operation
(R136, R134). -/
def finishErase (r : EraseResult) (s : State) : State :=
  settle (if r ≠ .erased ∧ usable s.store < 2 then becomeFailed .sectors s else chooseNext (endRecovery s))

/-! ## Meanings -/

/-- APPEND_COMPLETION (R135). -/
def execAppendCompletion (verified : Bool) (s : State) : Host.Outcome State Fault Refusal :=
  .next (
    let s := begin s
    match s.store.op with
    | some (.append i n seq body) =>
      finishOperation seq (appendVerified body verified (writeSlot i n { seq, body, sound := verified } s))
    | _ => s)

/-- COMPACTION_STEP_COMPLETION (R138, R139). -/
def execCompactionStepCompletion (verified : Bool) (s : State) : Host.Outcome State Fault Refusal :=
  .next (
    let s := begin s
    match s.store.op, s.store.compaction with
    | some (.step i n seq body), some c =>
      let s := writeSlot i n { seq, body, sound := verified } s
      finishOperation seq (s.setStore (stepVerified c body verified s.store))
    | _, _ => s)

/-- ERASE_COMPLETION (R136). -/
def execEraseCompletion (r : EraseResult) (s : State) : Host.Outcome State Fault Refusal :=
  .next (
    let s := begin s
    match s.store.op with
    | some (.erase i) => finishErase r (s.setStore { eraseVerified i r s.store with op := none })
    | _ => s)

end Sys2Proof.Machine
end

