-- ==== Sys2Proof/Machine/Resets.lean ====
section
/-! DEFINITION. Machine/Resets.lean: power-on and warm reset (R51, R127, R149, R169, R185) and the recovery scan at their
end (R142 to R144). -/

namespace Sys2Proof.Machine

/-! ## What a reset cuts off (R130, R136, R149) -/

/-- The slot of a cut-off programming, as the interruption left it (log 8). -/
def cutSlot (l : SlotLeft) (n : Nat) (seq : Word) (body : EntryBody) (sec : Sector) : Sector :=
  match l with
  | .erased => sec
  | .torn => Sector.program n { seq, body, sound := false } sec
  | .whole => Sector.program n { seq, body, sound := true } sec

/-- The array after the cut. -/
def cutArray (cut : Cut) (st : Store) : Four Sector :=
  match st.op with
  | some (.append i n seq body) => st.array.set i (cutSlot cut.program n seq body (st.array.get i))
  | some (.step i n seq body) => st.array.set i (cutSlot cut.program n seq body (st.array.get i))
  | some (.erase i) => st.array.set i (Sector.partErased cut.kept cut.torn (st.array.get i))
  | none => st.array

/-! ## The release of what is held (R51) -/

/-- Feeder k's responses sent upstream unaltered, in issue order. -/
def releaseRaw (s : State) (k : Ply) : State :=
  (feeder s k).queue.foldl (fun s r => sendUp (feederId k) r s) s

/-- The feeders that hold responses back. -/
def holders (s : State) : List Ply := plies.filter fun k => !(feeder s k).queue.isEmpty

/-- Every response held back, sent upstream unaltered; the feeders in the free order. -/
def releaseAllRaw (s : State) : State :=
  (arrange s.freeCount (holders s)).foldl releaseRaw (s.setFree (s.freeCount + freeUse (holders s).length))

/-! ## Resets -/

/-- Every block at its reset value, with the given window base and report block, the RESET line held or not (R127, R149,
R169, R51). On a part already reset it changes the line alone. -/
def resetTo (wbase : Byte) (report : Report) (cut : Cut) (s : State) : State :=
  let s := releaseAllRaw s
  { State.reset with
    path := { wbase, feeders := .const .cleared }
    bus := s.bus
    store := .afterReset (cutArray cut s.store)
    report
    resetting := cut.held
    freeCount := s.freeCount
    pending := s.pending }

/-- The report block after a warm reset: the fault history kept (R185). -/
def Report.warm (r : Report) : Report := { Report.cleared with slots := r.slots, head := r.head, total := r.total }

/-! ## The scan's classification (R142) -/

/-- The global sequence of a sector's header. -/
def headerSeq (sec : Sector) : Nat := ((Sector.slot sec 0).map fun x => x.seq.toNat).getD 0

/-- Whether sector j's valid header stands above the best found: a higher generation, or the same and a higher
sequence (R142). -/
def outranks (array : Four Sector) (j : SectorId) (best : Option SectorId) : Bool :=
  match Sector.generation (array.get j), best.bind fun i => (Sector.generation (array.get i)).map fun g => (i, g) with
  | none, _ => false
  | some _, none => true
  | some g, some (i, h) =>
    decide (h.toNat < g.toNat ∨ (h = g ∧ headerSeq (array.get i) < headerSeq (array.get j)))

/-- The sector the scan finds ACTIVE (R142). -/
def scanActive (array : Four Sector) : Option SectorId :=
  fours.foldl (fun best j => if outranks array j best then some j else best) none

/-- A sector's state after the scan (R142). -/
def scanState (array : Four Sector) (i : SectorId) : SectorState :=
  if (array.get i).isEmpty then .erased else if scanActive array = some i then .active else .full

/-- The sectors' states after the scan. -/
def scanStates (array : Four Sector) : Four SectorState :=
  ⟨scanState array 0, scanState array 1, scanState array 2, scanState array 3⟩

/-- The entries of a sector that pass their check. -/
def soundSlots (sec : Sector) : List Slot := (sec.map (·.2)).filter (·.sound)

/-- The highest sequence of an entry that passes its check, or 0 (R142). -/
def scanLastSeq (array : Four Sector) : Word :=
  BitVec.ofNat 32 ((array.toList.map fun sec => (soundSlots sec).foldl (fun m x => max m x.seq.toNat) 0).foldl max 0)

/-! ## The book table rebuilt (R143) -/

/-- The book an entry concerns. -/
def bookOf : EntryBody → Option Word
  | .header _ => none
  | .reserve book .. => some book
  | .close book .. => some book
  | .retire book => some book
  | .copy book .. => some book

/-- The row a book's latest entry gives (R143). -/
def rowOf : EntryBody → Option BookRow
  | .header _ => none
  | .reserve book dir value empty prior => some { book, dir, high := value, opened := true, empty, prior }
  | .close book dir value empty => some { book, dir, high := value, opened := false, empty, prior := some value }
  | .retire _ => none
  | .copy book dir high opened empty prior => some { book, dir, high, opened, empty, prior }

/-- The entries the table is rebuilt from: those that pass their check, in sectors with a valid header (R143). -/
def scanEntries (array : Four Sector) : List Slot :=
  (array.toList.map fun sec => if (Sector.generation sec).isSome then soundSlots sec else []).flatten

/-- The later of two entries by sequence. -/
def later (x : Option Slot) (y : Slot) : Slot :=
  match x with
  | none => y
  | some x => if x.seq.toNat < y.seq.toNat then y else x

/-- A book's latest entry (R143). -/
def latestOf (book : Word) (es : List Slot) : Option Slot :=
  (es.filter fun e => bookOf e.body == some book).foldl (fun acc e => some (later acc e)) none

/-- A book's row added to the rebuilt table, where it has one and it does not stand there yet. -/
def addBook (es : List Slot) (t : List BookRow) (book : Word) : List BookRow :=
  if t.any fun r => r.book == book then t
  else match (latestOf book es).bind fun e => rowOf e.body with
    | some r => insertRow r t
    | none => t

/-- The book table the scan rebuilds, in ascending order of book id (R143). -/
def scanTable (array : Four Sector) : List BookRow :=
  let es := scanEntries array
  (es.filterMap fun e => bookOf e.body).foldl (addBook es) []

/-! ## The end of the scan (R144) -/

/-- An OPEN book: its RECOVERY record pushed and its recovery close queued (R144), where the queue has room (R133). -/
def recoverBook (s : State) (r : BookRow) : State :=
  let s := pushRecord (.recovery r.book r.high) s
  if refuses s.store then s
  else s.setStore { s.store with queue := s.store.queue ++ [.recoveryClose r.book] }

/-- The store as the scan leaves it (R142, R143). -/
def scanned (st : Store) : Store :=
  { st with sectors := scanStates st.array, table := scanTable st.array, lastSeq := scanLastSeq st.array,
            scanMade := true }

/-- The scan (R142 to R144). -/
def scan (s : State) : State :=
  let s := s.setStore (scanned s.store)
  let s := (s.store.table.filter (·.opened)).foldl recoverBook s
  if s.store.lastSeq = Config.lastSequence then becomeFailed .worn s else chooseNext (endRecovery s)

/-! ## Meanings -/

/-- POWER_ON_RESET: the straps are sampled, the fault history emptied (R52, R127, R185). -/
def execPowerOnReset (straps : Byte) (cut : Cut) (s : State) : Host.Outcome State Fault Refusal :=
  .next (resetTo straps .cleared cut (begin s))

/-- WARM_RESET: the window and the fault history stay (R52, R127, R185). -/
def execWarmReset (cut : Cut) (s : State) : Host.Outcome State Fault Refusal :=
  .next (resetTo s.path.wbase (Report.warm s.report) cut (begin s))

/-- RECOVERY_SCAN (R142): once after each reset, the RESET line released (log 17). -/
def execRecoveryScan (s : State) : Host.Outcome State Fault Refusal :=
  .next (
    let s := begin s
    if s.resetting || s.store.scanMade then s else scan s)

end Sys2Proof.Machine
end

