-- ==== Sys2Proof/Machine/Dispatch.lean ====
section
/-! DEFINITION. Machine/Dispatch.lean: the meaning of each command of spec/opcode_table.json. -/

namespace Sys2Proof.Machine

def exec (i : Instr) (s : State) : Host.Outcome State Fault Refusal :=
  match i with
  | .load w => Sys2Proof.Machine.execLoad w s
  | .start w => Sys2Proof.Machine.execStart w s
  | .stop w => Sys2Proof.Machine.execStop w s
  | .hold w => Sys2Proof.Machine.execHold w s
  | .resume w => Sys2Proof.Machine.execResume w s
  | .abort w => Sys2Proof.Machine.execAbort w s
  | .close w => Sys2Proof.Machine.execClose w s
  | .spoil w => Sys2Proof.Machine.execSpoil w s
  | .retire w => Sys2Proof.Machine.execRetire w s
  | .ack w => Sys2Proof.Machine.execAck w s
  | .clearHistory w => Sys2Proof.Machine.execClearHistory w s
  | .unknownCommand code w => Sys2Proof.Machine.execUnknownCommand code w s
  | .partialCommandWrite c arg1 arg2 => Sys2Proof.Machine.execPartialCommandWrite c arg1 arg2 s
  | .stagingWrite addr words => Sys2Proof.Machine.execStagingWrite addr words s
  | .popWordRead r => Sys2Proof.Machine.execPopWordRead r s
  | .headFeederAccess k a => Sys2Proof.Machine.execHeadFeederAccess k a s
  | .readResponse k r => Sys2Proof.Machine.execReadResponse k r s
  | .bindWaitExpiry k => Sys2Proof.Machine.execBindWaitExpiry k s
  | .encEdge rising => Sys2Proof.Machine.execEncEdge rising s
  | .pitchEvent => Sys2Proof.Machine.execPitchEvent s
  | .cueEdge => Sys2Proof.Machine.execCueEdge s
  | .syntheticPitchEvent => Sys2Proof.Machine.execSyntheticPitchEvent s
  | .deadlineEvent => Sys2Proof.Machine.execDeadlineEvent s
  | .lineSample levels => Sys2Proof.Machine.execLineSample levels s
  | .spliceEdge k => Sys2Proof.Machine.execSpliceEdge k s
  | .breakEdge k => Sys2Proof.Machine.execBreakEdge k s
  | .jamEdge => Sys2Proof.Machine.execJamEdge s
  | .holdreqChange active => Sys2Proof.Machine.execHoldreqChange active s
  | .pwrwarnActive => Sys2Proof.Machine.execPwrwarnActive s
  | .pwrwarnInactive => Sys2Proof.Machine.execPwrwarnInactive s
  | .tallyCharacter k data stopHigh => Sys2Proof.Machine.execTallyCharacter k data stopHigh s
  | .appendCompletion verified => Sys2Proof.Machine.execAppendCompletion verified s
  | .compactionStepCompletion verified => Sys2Proof.Machine.execCompactionStepCompletion verified s
  | .eraseCompletion r => Sys2Proof.Machine.execEraseCompletion r s
  | .powerOnReset straps cut => Sys2Proof.Machine.execPowerOnReset straps cut s
  | .warmReset cut => Sys2Proof.Machine.execWarmReset cut s
  | .recoveryScan => Sys2Proof.Machine.execRecoveryScan s
  | .tallyLineIdleSeen k => Sys2Proof.Machine.execTallyLineIdleSeen k s

end Sys2Proof.Machine
end

