-- ==== Sys2Proof/Safety.lean ====
section
/-! DEFINITION. Safety.lean: the invariants a step keeps, and the words the statements are written in: the state a
command is taken in, and the condition that it is taken at all. -/

namespace Sys2Proof.Safety

open Sys2Proof.Machine

/-! ## Invariants -/

/-- The array in canonical form: in every sector the slot numbers strictly rise (R128). -/
def arrayWf (a : Four Sector) : Bool := a.toList.all Sector.wf

/-- Between commands no pitch operation is going on and no claim waits (R31, R122). -/
abbrev Settled (s : State) : Prop := s.ctl.inOperation = false ∧ s.ctl.claims = []

/-- The pipeline's shape by job state: a ticket is held in every state but IDLE, and its gate delay is 1 or more
(R161, R157); G entries in the running states and none in the others; a PENDING entry only at position 0 (R24), and
only in RUN (R40). -/
structure PipelineShape (s : State) : Prop where
  ticket : s.ctl.job = .idle ↔ s.ticket.active = none
  delay : ∀ t, s.ticket.active = some t → 1 ≤ t.gateDelay
  running : s.ctl.job.running = true → s.pipe.entries.length = gateDistOf s
  others : s.ctl.job.running = false → s.pipe.entries = []
  behind : ∀ e ∈ s.pipe.entries.tail, e.isPending = false
  first : pendingAtZero s = true → s.ctl.job = .run

/-- The capacities and sizes the rules give: 128 staged words (R151), 16 history slots (R181), a run count for each
input (R105), 32 sets on the remake list (R98) and 40 requests in the store's queue (R133). -/
structure Sizes (s : State) : Prop where
  staged : s.ticket.staged.length = 128
  slots : s.report.slots.length = 16
  runs : s.lines.runs.length = 18
  remakes : s.spoil.remakes.length ≤ 32
  requests : s.store.queue.length ≤ 40

/-- Before the scan no job is held, nothing is in flight and no record is queued: the store is RECOVERING with no ACTIVE
sector (R140, R149, R170; the sectors by log 1). -/
abbrev BeforeScan (s : State) : Prop :=
  s.store.scanMade = false → s.ctl.job = .idle ∧ s.ticket.active = none ∧ s.store.phase = .recovering ∧
    s.store.sectors = .const .erased ∧ s.store.op = none ∧ s.store.queue = [] ∧ s.report.queue = []

/-- How many entries of the pipeline are SET. -/
def setCount (s : State) : Nat := (s.pipe.entries.filter Entry.isSetEntry).length

/-- Why the disposition queue has room (R175): G is at most 78; in RUN the level is below 48; outside RUN each SET entry
still has its record to come, and the level stays at 126 or below, under the 128 of R170. -/
structure QueueBound (s : State) : Prop where
  distance : ∀ t, s.ticket.active = some t → t.gateDist ≤ 78
  run : s.ctl.job = .run → s.report.queue.length < 48
  running : s.ctl.job.running = true → s.report.queue.length + setCount s ≤ 126
  level : s.report.queue.length ≤ 126
  unscanned : BeforeScan s

/-- The stream a reservation request is for. -/
def reserver : Request → Option StreamId
  | .reservation i _ _ _ => some i
  | _ => none

/-- Whether a request is a RETIRE's. -/
def ofRetire : Request → Bool
  | .retire _ => true
  | _ => false

/-- A booked stream (R13): active, its book id not 0, the policy VOID or REMAKE. -/
abbrev Booked (t : Ticket) (i : StreamId) : Prop :=
  (t.streams.get i).active = true ∧ (t.streams.get i).book ≠ 0 ∧ (t.policy = .void ∨ t.policy = .remake)

/-- Why the book table has room (R132): LOAD counted the books of the job's booked streams that have no row yet (R146),
and a row is added for one of them alone. With no job, recovery closes and a pending RETIRE's one request are queued; with
one, reservations of its booked streams, one at most for each, and in CLOSING its close appends behind them. -/
structure BookBound (s : State) : Prop where
  rows : s.store.table.length ≤ 32
  distinct : (s.store.table.map (·.book)).Nodup
  room : ∀ t, s.ticket.active = some t → s.store.table.length + newBooks t s.store 3 ≤ 32
  shared : ∀ t, s.ticket.active = some t → ∀ i j, Booked t i → Booked t j →
    (t.streams.get i).book = (t.streams.get j).book → i = j
  held : s.ctl.job = .idle ↔ s.ticket.active = none
  noJob : s.ticket.active = none → ∀ r ∈ s.store.queue,
    ((∃ b, r = .recoveryClose b) ∧ s.store.phase = .recovering) ∨
      ((∃ b, r = .retire b) ∧ ∃ p, s.ticket.waiting = some p ∧ p.kind = .retire)
  job : ∀ t, s.ticket.active = some t → ∀ r ∈ s.store.queue,
    (∃ i d l, r = .reservation i (t.streams.get i).book d l ∧ Booked t i ∧ (streamAt s i).inFlight = true) ∨
      (s.ctl.job = .closing ∧ r.isCloseAppend = true)
  once : (s.store.queue.filterMap reserver).Nodup
  alone : (s.store.queue.filter ofRetire).length ≤ 1
  ahead : s.ctl.job = .closing → ∀ q r rest, s.store.queue = q ++ r :: rest → (reserver r).isSome = true →
    rest.any Request.isCloseAppend = true
  retiring : ∀ p, s.ticket.waiting = some p → p.kind = .retire → s.ctl.job = .idle
  failed : ∀ c, s.store.phase = .failed c → s.store.queue = []
  flight : ∀ i n seq b d v e p, s.store.op = some (.append i n seq (.reserve b d v e p)) →
    ∃ j l rest, s.store.queue = .reservation j b d l :: rest
  unscanned : BeforeScan s

/-- The scan this step may make finds no more than the 32 live books of R132. -/
abbrev ScanFits (s : State) : Prop :=
  s.pending.head? = some .recoveryScan → (scanTable s.store.array).length ≤ 32

/-! ## Commands of the press controller -/

/-- A full write of the command word whose command is judged by its own rule: a contiguous burst (section 3.1), no reset
held (R51), no command pending (R163). -/
abbrev Takes (w : CommandWrite) (s : State) : Prop :=
  w.wf = true ∧ s.resetting = false ∧ s.ticket.waiting = none

/-- An argument shadow after the burst: the word it carries merged in, if it carries one (R152). -/
def shadow (old : Word) : Option WordWrite → Word
  | some w => mergeBytes old w
  | none => old

/-- The write access that carries a command (R162). -/
def commandAccess (code : Byte) (w : CommandWrite) (s : State) : Access :=
  { addr := commandAddr s, body := .write (commandBurst (CommandWrite.word code w) w.arg1 w.arg2) }

/-- The state a command of a code is taken in: the access has passed downstream and its argument words are staged
(R48, R150). -/
def arrived (code : Byte) (w : CommandWrite) (s : State) : State :=
  { s with
    bus := { upstream := [], downstream := [(controllerId, commandAccess code w s)] }
    ticket := { s.ticket with arg1 := shadow s.ticket.arg1 w.arg1, arg2 := shadow s.ticket.arg2 w.arg2 } }

/-- A state with the result word and the argument echo of a command just answered (R164). -/
def withResult (code tag : Byte) (r : ResultCode) (check : BitVec 3) (detail : Word) (s : State) : State :=
  { s with ticket := { s.ticket with
      result := { code, tag, result := r, check, detail, echo1 := s.ticket.arg1, echo2 := s.ticket.arg2 } } }

/-- The pending records of CLOSE and RETIRE (R165, R189). -/
def waitingClose (w : CommandWrite) (s : State) : PendingCommand :=
  { kind := .close, tag := w.tag, failed := none
    echo1 := shadow s.ticket.arg1 w.arg1, echo2 := shadow s.ticket.arg2 w.arg2 }

def waitingRetire (w : CommandWrite) (s : State) : PendingCommand :=
  { kind := .retire, tag := w.tag, failed := none
    echo1 := shadow s.ticket.arg1 w.arg1, echo2 := shadow s.ticket.arg2 w.arg2 }

/-- The full write of a code, as the table's rows name it (R163, R194). -/
def fullWrite (code : Byte) (w : CommandWrite) : Instr :=
  if code = 1 then .load w
  else if code = 2 then .start w
  else if code = 3 then .stop w
  else if code = 4 then .hold w
  else if code = 5 then .resume w
  else if code = 6 then .abort w
  else if code = 7 then .close w
  else if code = 8 then .spoil w
  else if code = 9 then .retire w
  else if code = 10 then .ack w
  else if code = 11 then .clearHistory w
  else .unknownCommand code w

/-! ## The checks of LOAD on a ticket (R156 to R158, R146) -/

/-- The number that bits hi down to lo of a word hold. -/
def bits (w : Word) (hi lo : Nat) : Nat := (w.extractLsb' lo (hi + 1 - lo)).toNat

/-- The sum of a ticket's words, carries out of bit 31 discarded (R156). -/
def wordSum (ws : List Word) : Word := BitVec.ofNat 32 (ws.map (·.toNat)).sum

/-- Word 1 out of range: the policy 0, a source above 1, a rate above 4, the gate delay 0, the threshold not 1 to 48
(section 11.3.1). -/
abbrev HeaderOut (w : Word) : Prop :=
  bits w 1 0 = 0 ∨ 2 ≤ bits w 3 2 ∨ 5 ≤ bits w 6 4 ∨ bits w 11 8 = 0 ∨ bits w 17 12 = 0 ∨ 49 ≤ bits w 17 12

/-- Word 2 out of range: L below 16, D not 1 to L − 1 (section 11.3.1). -/
abbrev LengthOut (w : Word) : Prop := bits w 15 0 ≤ 15 ∨ bits w 31 16 = 0 ∨ bits w 15 0 ≤ bits w 31 16

/-- The first word of an active stream out of range: mode 3; but in FIXED mode, step 0 or −16 (section 11.3.2). -/
abbrev StreamOut (w : Word) : Prop :=
  bits w 0 0 = 1 ∧ (bits w 5 4 = 3 ∨ (bits w 5 4 ≠ 2 ∧ (bits w 20 16 = 0 ∨ bits w 20 16 = 16)))

/-- The second word of an active EVERY_K stream out of range: K 0 (section 11.3.2). -/
abbrev RepeatOut (first w : Word) : Prop := bits first 0 0 = 1 ∧ bits first 5 4 = 1 ∧ bits w 15 0 = 0

/-- The first word of an enabled ply out of range: H 0, F above 8, Z not 1 to 4 (section 11.3.3). -/
abbrev PlyOut (w : Word) : Prop :=
  bits w 0 0 = 1 ∧ (bits w 13 8 = 0 ∨ 9 ≤ bits w 19 16 ∨ bits w 26 24 = 0 ∨ 5 ≤ bits w 26 24)

/-- Word n of a ticket, at offset 4n, holds a field out of its range (R157; sections 11.3.1, 11.3.2 and 11.3.3). -/
abbrev OutOfRange (ws : List Word) (n : Nat) : Prop :=
  (n = 1 ∧ HeaderOut (stagedWord ws n)) ∨ (n = 2 ∧ LengthOut (stagedWord ws n)) ∨
    (∃ i : StreamId, n = 16 + 16 * i.val ∧ StreamOut (stagedWord ws n)) ∨
    (∃ i : StreamId, n = 17 + 16 * i.val ∧ RepeatOut (stagedWord ws (16 + 16 * i.val)) (stagedWord ws n)) ∨
    ∃ k : Ply, n = 80 + 8 * k.val ∧ PlyOut (stagedWord ws n)

/-- Ply k is enabled with its tally, and its tally stream is not active. -/
abbrev TallyStreamInactive (t : Ticket) (k : Ply) : Prop :=
  (t.plies.get k).enabled = true ∧ (t.plies.get k).tally = true ∧
    (t.streams.get (t.plies.get k).tallyStream).active = false

/-- An active stream not in FIXED mode whose first lies past its last in the step's direction. -/
abbrev RunAgainstStep (t : Ticket) (i : StreamId) : Prop :=
  (t.streams.get i).active = true ∧ (t.streams.get i).mode ≠ .fixed ∧
    ((0 < (t.streams.get i).step ∧ (t.streams.get i).last.toNat < (t.streams.get i).first.toNat) ∨
      (¬0 < (t.streams.get i).step ∧ (t.streams.get i).first.toNat < (t.streams.get i).last.toNat))

/-- A FIXED stream, or an EVERY_K stream with K above 1, that names a book. Only active streams are judged (log 18). -/
abbrev BookNotAllowed (t : Ticket) (i : StreamId) : Prop :=
  (t.streams.get i).active = true ∧ (t.streams.get i).book ≠ 0 ∧
    ((t.streams.get i).mode = .fixed ∨ ((t.streams.get i).mode = .everyK ∧ 1 < (t.streams.get i).k))

/-- The staged ticket passes the first six checks. -/
abbrev PassesSix (ws : List Word) : Prop :=
  wordSum ws = 0 ∧ (∀ n, ¬OutOfRange ws n) ∧ (∃ k, ((ticketOf ws).plies.get k).enabled = true) ∧
    (∀ k, ¬TallyStreamInactive (ticketOf ws) k) ∧ (∀ i, ¬RunAgainstStep (ticketOf ws) i) ∧
    ∀ i, ¬BookNotAllowed (ticketOf ws) i

/-! ## The proof generator (R20, R21) -/

/-- The register after the 24 steps of the first proof value looked at and 24 more for each of n passed over. -/
def proofRegister (g : BitVec 24) (n : Nat) : BitVec 24 := genStep^[24 * (n + 1)] g

/-- The proof value of a register. -/
def proofOf (g : BitVec 24) : Word := BitVec.ofNat 32 (g.toNat % 1000000)

/-- The seed of a job id: its low 24 bits, or 1 where they are all zero. -/
def seedOf (jobId : Word) : BitVec 24 := if jobId.extractLsb' 0 24 = 0 then 1 else jobId.extractLsb' 0 24

/-! ## Requests of the streams (R15, R16, R18, R133) -/

/-- The limit the renewal of a stream asks for, none where none is due (R16). -/
def renewalAsked (t : Ticket) (s : State) (i : StreamId) : Option Word :=
  if Booked t i then renewalDue (t.streams.get i) (streamAt s i) else none

/-- The limit START asks for on a stream: of a booked LIVE stream without a request in flight, an initial one where no
limit is present, a renewal's where that is due. -/
def startLimit (t : Ticket) (s : State) (i : StreamId) : Option Word :=
  if Booked t i ∧ (streamAt s i).status = .live ∧ (streamAt s i).inFlight = false then
    match (streamAt s i).limit with
    | none => some (initialLimit (t.streams.get i) (streamAt s i).v)
    | some _ => renewalAsked t s i
  else none

/-- A booked stream without a limit, or with its value beyond its limit (R7, R14). -/
abbrev Lacks (t : Ticket) (s : State) (i : StreamId) : Prop :=
  Booked t i ∧ (match (streamAt s i).limit with
    | some l => beyond (t.streams.get i).dir (streamAt s i).v l
    | none => true) = true

/-- The limit an UNCOVERED answer asks for on a stream: of one that lacks a limit and has no request in flight, as START
does (R7, R16). -/
def uncoveredLimit (t : Ticket) (s : State) (i : StreamId) : Option Word :=
  if Lacks t s i ∧ (streamAt s i).inFlight = false then startLimit t s i else none

/-- The requests of the streams that ask for a limit, S0's first: after a draw by R7's order, at START and UNCOVERED by
log 16. -/
def requestsFor (t : Ticket) (ask : StreamId → Option Word) : List Request :=
  fours.filterMap fun i => (ask i).map fun l => .reservation i (t.streams.get i).book (t.streams.get i).dir l

/-- A stream's record after its request, accepted or refused; unchanged where it asks for nothing (R15, R18). -/
def askedStream (ask : Option Word) (accepted : Bool) (x : StreamState) : StreamState :=
  match ask with
  | some l => { x with inFlight := accepted, requested := l }
  | none => x

/-- Stream i's request finds fewer than 40 in the store's queue, with those that lower streams have put there (R133). -/
abbrev RoomFor (ask : StreamId → Option Word) (s : State) (i : StreamId) : Prop :=
  s.store.queue.length + (fours.filter fun j => decide (j < i) && (ask j).isSome).length < 40

/-- What requests for the limits `ask` make of the streams and the store in `s`: each request joins the queue's tail while
there is room, its stream's flag set; refused, the flag is clear; every other record stays. -/
structure Requested (t : Ticket) (ask : StreamId → Option Word) (s u : State) : Prop where
  generator : u.streams.generator = s.streams.generator
  streams : (∀ c, s.store.phase ≠ .failed c) →
    s.store.queue.length ≤ 36 ∨ (∀ r ∈ s.store.queue, (appendBody s.store r).isSome = true) →
    (∀ i, streamAt u i = askedStream (ask i) (decide (RoomFor ask s i)) (streamAt s i)) ∧
    u.store.table = s.store.table ∧ u.store.array = s.store.array
  queue : (∀ c, s.store.phase ≠ .failed c) → (∀ r ∈ s.store.queue, (appendBody s.store r).isSome = true) →
    u.store.queue = s.store.queue ++ (requestsFor t ask).take (40 - s.store.queue.length)
  failed : (∃ c, s.store.phase = .failed c) →
    u.store = s.store ∧ ∀ i, streamAt u i = askedStream (ask i) false (streamAt s i)

/-- What requests leave alone: every block but the streams and the store, unless the store finds the wait of R137 at one of
them and raises its STORE_FAULT. -/
structure RequestFrame (s u : State) : Prop where
  rest : u = { s with streams := u.streams, store := u.store, pipe := u.pipe, ctl := u.ctl, report := u.report }
  calm : u.store.fullWait = s.store.fullWait → u.pipe = s.pipe ∧ u.ctl = s.ctl ∧ u.report = s.report
  waits : s.store.fullWait = false → u.store.fullWait = true →
    u.pipe = (raise .storeFault 0 0 s).pipe ∧ u.ctl = (raise .storeFault 0 0 s).ctl ∧
      u.report = (raise .storeFault 0 0 s).report

/-! ## Lines and entries -/

/-- Input n is the lowest-numbered active one of BREAK1 to BREAK6 and JAM (R116, R104). -/
abbrev FirstHaltLine (s : State) (n : Fin 18) : Prop :=
  8 ≤ n.val ∧ n.val ≤ 14 ∧ inputActive s n = true ∧ ∀ m : Fin 18, 8 ≤ m.val → m < n → inputActive s m = false

/-- None of BREAK1 to BREAK6 and JAM is active. -/
abbrev NoHaltLine (s : State) : Prop := ∀ n : Fin 18, 8 ≤ n.val → n.val ≤ 14 → inputActive s n = false

/-- The VOID record ABORT gives an entry, none where it is not SET (R102). -/
def abortRecord : Entry → Option Record
  | .set e => some (.ofSet .void e.serial e.attempt e.stamp (e.causes ||| BitVec.twoPow 14 12) e.plies e.values)
  | _ => none

/-- The VOID record CLOSE gives a set of the remake list (R187). -/
def unmadeRecord (stamp : Word) (x : RemakeEntry) : Record :=
  .ofSet .void x.serial x.attempt stamp (x.causes ||| BitVec.twoPow 14 13) x.plies x.values

/-- A saturating count n higher. -/
def satAdd (v : Word) (n : Nat) : Word := BitVec.ofNat 32 (min (v.toNat + n) 0xFFFFFFFF)

/-- The records CLOSE pushes: each set of the remake list voided, oldest first, then a stream SUMMARY for each active
stream and the job SUMMARY, the VOID count counting those sets (R187, R188). -/
def closeRecords (t : Ticket) (s : State) : List Record :=
  let void := satAdd s.spoil.void s.spoil.remakes.length
  s.spoil.remakes.map (unmadeRecord s.pipe.pitchCount) ++
    (fours.filter fun i => (t.streams.get i).active).map (fun i =>
      .stream i s.pipe.pitchCount (streamAt s i).firstDrawn (streamAt s i).lastDrawn (streamAt s i).valuesDrawn
        s.spoil.good void s.spoil.remade) ++
    [.job s.pipe.pitchCount s.pipe.opened s.spoil.good void s.spoil.blank s.pipe.reserveWait]

/-- The close appends CLOSE asks for: one for each booked stream in stream order, with the last value drawn, if any
(R189). -/
def closeRequests (t : Ticket) (s : State) : List Request :=
  (fours.filter fun i => decide (Booked t i)).map fun i =>
    .closeAppend i (t.streams.get i).book (t.streams.get i).dir
      (if (streamAt s i).drawn then some (streamAt s i).lastDrawn else none)

/-- The part with CLOSE accepted and its records pushed, no close append asked for yet (R186 to R188). -/
def closingState (w : CommandWrite) (t : Ticket) (s : State) : State :=
  { arrived 7 w s with
    ctl := { s.ctl with job := .closing }
    ticket := { (withResult 7 w.tag .pending 0 0 (arrived 7 w s)).ticket with waiting := some (waitingClose w s) }
    spoil := { s.spoil with remakes := [], void := satAdd s.spoil.void s.spoil.remakes.length }
    report := { s.report with queue := s.report.queue ++ closeRecords t s } }

/-- What the end of CLOSE makes of the part (R191): the final result with the echo the pending record kept, the job IDLE,
every block without it, the default settings in force. -/
structure JobEnded (r : ResultCode) (detail : Word) (s u : State) : Prop where
  control : u.ctl = { s.ctl with job := .idle, snapshot := State.reset.ctl.snapshot }
  ticket : ∀ p, s.ticket.waiting = some p → u.ticket = { s.ticket with
    active := none
    waiting := none
    result := { code := 7, tag := p.tag, result := r, check := 0, detail, echo1 := p.echo1, echo2 := p.echo2 } }
  streams : u.streams = State.reset.streams
  pipe : u.pipe = State.reset.pipe
  timer : u.timer = State.reset.timer
  tally : u.tally = State.reset.tally
  spoil : u.spoil = { s.spoil with zones := .const 0, good := 0, void := 0, remade := 0, blank := 0 }
  path : u.path.wbase = s.path.wbase ∧
    ∀ k, feeder u k = { feeder s k with cont := none, slotReads := 0, strays := 0 }
  lines : u.lines = { s.lines with
    runs := List.replicate 18 0
    glitches := 0
    holdreq := inputActive u inHoldreq
    pwrwarn := inputActive u inPwrwarn }

/-- The store may choose an operation, and no compaction stands before the queue: the resource is free, the ACTIVE sector
has more than 32 free slots (R134, R138). -/
abbrev FreeFor (st : Store) (a : SectorId) : Prop :=
  st.scanMade = true ∧ st.op = none ∧ st.quiesced = false ∧ (∀ c, st.phase ≠ .failed c) ∧ st.compaction = none ∧
    st.active = some a ∧ 32 < Sector.free (st.array.get a)

/-- The store with an append started in its ACTIVE sector (R135, R130). -/
def appendStarted (st : Store) (a : SectorId) (body : EntryBody) : Store :=
  { st with lastSeq := st.lastSeq + 1
            op := some (.append a (Sector.highest (st.array.get a) + 1) (st.lastSeq + 1) body) }

/-- The next step of a compaction, given the next sequence: the first row to be copied, in the target's next slot, or the
header in its slot 0 (R138, R130). -/
def compactionStep (st : Store) (c : Compaction) : Operation :=
  match c.todo with
  | x :: _ => .step c.target (Sector.highest (st.array.get c.target) + 1) (st.lastSeq + 1)
      (.copy x.book x.dir x.high x.opened x.empty x.prior)
  | [] => .step c.target 0 (st.lastSeq + 1) (.header (st.activeGeneration + 1))

/-- The store with the erase of a sector started (R134). -/
def eraseStarted (st : Store) (i : SectorId) : Store :=
  { st with sectors := st.sectors.set i .erasing, op := some (.erase i) }

/-! ## The pipeline -/

/-- The pipeline once a PENDING entry at position 0 has become BLANK (R34, R40). -/
def blanked (p : Pipeline) : Pipeline :=
  match p.entries with
  | .pending .. :: es => { p with entries := .blank :: es, reserveWait := satSucc p.reserveWait }
  | _ => p

/-- An entry with a cause added where it is SET (R27). -/
def withCause (c : Cause) : Entry → Entry
  | .set e => .set { e with causes := e.causes ||| BitVec.twoPow 14 c.num }
  | e => e

/-! ## Reads of the form bus -/

/-- An address at an offset of the watch window (R52). -/
abbrev AtOffset (s : State) (a : Addr) (off : Nat) : Prop := a = windowBase s.path.wbase + BitVec.ofNat 28 off

/-- An address in image slot k (R53). -/
abbrev InSlotOf (s : State) (k : Ply) (a : Addr) : Prop :=
  ∃ off, slotBase k ≤ off ∧ off < slotBase k + 0x28000 ∧ AtOffset s a off

/-- An address in the window outside image slot k (R55). -/
abbrev StraysOf (s : State) (k : Ply) (a : Addr) : Prop :=
  ∃ off, off < 0x100000 ∧ ¬(slotBase k ≤ off ∧ off < slotBase k + 0x28000) ∧ AtOffset s a off

/-- The state after a read's POP: the head record gone where a word of the response lies at the POP word (R174). -/
def popped (r : Response) (s : State) : State :=
  if (List.range r.words.length).any fun j => wordAddr r.addr j == windowBase s.path.wbase + 0x81E0 then
    { s with report := { s.report with queue := s.report.queue.drop 1 } }
  else s

/-- Feeder k's record with a response's hold ended and its queue empty (R68). -/
def unheld (k : Ply) (s : State) : State :=
  { s with path := { s.path with feeders := s.path.feeders.set k { feeder s k with
      queue := []
      held := false
      timer := none } } }

/-- Feeder k's record with its first response gone and its hold ended (R68). -/
def headGone (k : Ply) (s : State) : State :=
  { s with path := { s.path with feeders := s.path.feeders.set k { feeder s k with
      queue := (feeder s k).queue.tail
      held := false
      timer := none } } }

/-- Feeder k's first response held, its timer started (R67). -/
def headHeld (k : Ply) (s : State) : State :=
  { s with path := { s.path with feeders := s.path.feeders.set k { feeder s k with
      held := true
      timer := some (bindLimitOf s) } } }

/-- A response sent upstream for one that memory returned: address, status and number of words are the same (R48). -/
abbrev SentFor (r x : Response) : Prop := x.addr = r.addr ∧ x.ok = r.ok ∧ x.words.length = r.words.length

/-- The responses to feeder k that the bus has carried upstream, in order. -/
def sentTo (k : Ply) (s : State) : List Response := (s.bus.upstream.filter fun x => x.1 == feederId k).map (·.2)

/-- Feeder k holding one response, its timer started (R67). -/
def holding (k : Ply) (r : Response) (s : State) : State :=
  { s with path := { s.path with feeders := s.path.feeders.set k { feeder s k with
      queue := [r]
      held := true
      timer := some (bindLimitOf s) } } }

/-- Feeder k's continuation record, for a field of which n words have been returned: none once they are all returned
(R60, R63). -/
def keptRecord (glyphs : List (BitVec 16)) (n : Nat) (next : Addr) (serial : Word) (attempt : BitVec 2) :
    Option Continuation :=
  if n < glyphs.length then some { glyphs := glyphs.drop n, next, serial, attempt } else none

/-- The state with feeder k's record set and a response sent to it, the glyphs of a field in place of its words from place b
on, the others as memory holds them (R60). -/
def returned (k : Ply) (r : Response) (b : Nat) (glyphs : List (BitVec 16)) (serial : Word) (attempt : BitVec 2)
    (s : State) : State :=
  { s with
    path := { s.path with feeders := s.path.feeders.set k { feeder s k with
      cont := keptRecord glyphs (r.words.length - b) (wordAddr r.addr r.words.length) serial attempt } }
    bus := { s.bus with upstream := s.bus.upstream ++
      [(feederId k, { r with words := r.words.take b ++
        (glyphs.take (r.words.length - b)).map (·.setWidth 32) ++ r.words.drop (b + glyphs.length) })] } }

/-- The state with a response sent to feeder k as memory holds it. -/
def passed (k : Ply) (r : Response) (s : State) : State :=
  { s with bus := { s.bus with upstream := s.bus.upstream ++ [(feederId k, r)] } }

/-- A word of a response of feeder k with the marker in its top byte, in the ply's slot (R56). -/
abbrev MarkedAt (s : State) (k : Ply) (r : Response) (j : Nat) : Prop :=
  ∃ w, r.words[j]? = some w ∧ w.extractLsb' 24 8 = 0xA7 ∧ InSlotOf s k (wordAddr r.addr j)

/-- A response of feeder k whose one field token stands at place b, at offset off of the window, and takes up the n words
from there on: no other word that is examined has the marker (R56). -/
abbrev OneToken (s : State) (k : Ply) (r : Response) (b off n : Nat) : Prop :=
  AtOffset s (wordAddr r.addr b) off ∧ MarkedAt s k r b ∧ slotBase k ≤ off ∧ off < slotBase k + 0x28000 ∧
    ∀ j, j < b ∨ b + n ≤ j → ¬MarkedAt s k r j

/-- A token that a running job's entry does not render (R57, row 4): malformed, or naming a stream not active in the job,
or asking for a check digit of a stream whose method is NONE. -/
abbrev TokenRefused (t : Ticket) (k : Ply) (tok : Token) (off : Nat) : Prop :=
  tok.wellFormed k off = false ∨ (t.streams.get tok.stream).active = false ∨
    (tok.check = true ∧ (t.streams.get tok.stream).check = .none)

/-- TOKEN_BAD marked for ply k on a set and raised (R61). -/
def tokenBad (k : Ply) (e : SetEntry) (s : State) : State :=
  raise .tokenBad (plyNumber k) e.serial (markSerial e.serial e.attempt .tokenBad (some k) s)

/-- Feeder k's record emptied. -/
def withoutRecord (k : Ply) (s : State) : State :=
  { s with path := { s.path with feeders := s.path.feeders.set k { feeder s k with cont := none } } }

/-- A set whose field of ply k has completed once more (R29, R62). -/
def fieldDone (k : Ply) (serial : Word) (attempt : BitVec 2) : Entry → Entry
  | .set e =>
    if e.serial = serial ∧ e.attempt = attempt then
      .set { e with fields := e.fields.set k (if e.fields.get k = 15 then 15 else e.fields.get k + 1) }
    else .set e
  | e => e

/-- Ply k's field of the set with a serial and attempt completed, wherever it stands. -/
def countField (k : Ply) (serial : Word) (attempt : BitVec 2) (s : State) : State :=
  { s with pipe := { s.pipe with entries := s.pipe.entries.map (fieldDone k serial attempt) } }

/-! ## Image and tally checks (R32, R33, R41) -/

/-- The image check of ply k at position p finds a set missed. -/
abbrev MissesImage (t : Ticket) (p : Nat) (e : SetEntry) (k : Ply) : Prop :=
  (t.plies.get k).enabled = true ∧ t.headPos k = p ∧ e.image.get k = .none ∧
    (e.fields.get k).toNat < (t.plies.get k).fields

/-- A leaving set has no report of ply k, whose tally is enabled. -/
abbrev MissesTally (t : Ticket) (e : SetEntry) (k : Ply) : Prop :=
  (t.plies.get k).enabled = true ∧ (t.plies.get k).tally = true ∧ e.tally.get k = .none

/-- The entry a pitch operation hands over for its decision: BLANK, or the last set after the checks of its departure
(R32 to R35). A response released within the operation may have completed or broken its fields (R34, R62, R65). -/
structure Departs (t : Ticket) (s : State) (gone : Entry) : Prop where
  blank : (∀ e, s.pipe.entries.getLast? ≠ some (.set e)) → gone = .blank
  checked : ∀ e, (tallyCheck t (imageChecks t s.pipe.entries).1).1.getLast? = some (.set e) → ∃ e' : SetEntry,
    gone = .set e' ∧ e' = { e with fields := e'.fields, causes := e'.causes, plies := e'.plies } ∧
    (∀ n, n ≠ 2 → e'.causes.getLsbD n = e.causes.getLsbD n) ∧ (e.causes.getLsbD 2 = true → e'.causes.getLsbD 2 = true) ∧
    e.plies &&& e'.plies = e.plies ∧
    (pendingAtZero s = false ∨ (∀ k, (feeder s k).held = true → (feeder s k).cont = none) → e' = e)

/-! ## Pitches and edges -/

/-- The state at a pitch event: a new interval (R110). -/
def newInterval (s : State) : State := { s with timer := { s.timer with encoder := 0, deadlineMade := false } }

/-- One make-ready pitch counted (R114). -/
def makeReadyCounted (s : State) : State :=
  { s with timer := { s.timer with makeReady := satAdd s.timer.makeReady 1 } }

/-- A pitch event made (R114): counted in IDLE and READY, taken by no block in CLOSING, by the pitch operation in the
running states; `kinds` are the faults raised with it (R113). -/
def pitchMade (kinds : List FaultKind) (s u : State) : Prop :=
  (s.ctl.job = .idle ∨ s.ctl.job = .ready →
    u = kinds.foldl (fun x f => raise f 0 0 x) (makeReadyCounted (newInterval s))) ∧
  (s.ctl.job = .closing → u = kinds.foldl (fun x f => raise f 0 0 x) (newInterval s)) ∧
  (s.ctl.job.running = true → ∀ t, s.ticket.active = some t →
    u = settle (pitchOperation t (kinds.map fun f => (f, 0, 0)) (newInterval s)))

/-- Whether an edge of input n is taken: a sample has accepted one; or, once a first sample has set the levels, the input
is enabled and its accepted level is not its active one (R105, R106; log 4). -/
abbrev EdgeTaken (n : Fin 18) (s : State) : Prop :=
  s.resetting = false ∧
    (n ∈ s.lines.raised ∨ (s.lines.sampled = true ∧ (setting s n).enabled = true ∧ inputActive s n = false))

/-- The state an edge is taken in: an accepted edge is taken once; one not accepted by a sample stands for its acceptance,
which makes the active level the accepted one and the run count 0 (R105; log 4). -/
def edgeState (n : Fin 18) (s : State) : State :=
  if n ∈ s.lines.raised then
    { s with lines := { s.lines with raised := s.lines.raised.erase n }, bus := { upstream := [], downstream := [] } }
  else
    { s with lines := { s.lines with accepted := setLevel s.lines.accepted n !(setting s n).inverted
                                     runs := s.lines.runs.set n.val 0 }
             bus := { upstream := [], downstream := [] } }

/-- The state a level input's change is taken in: its accepted level is the active or the inactive one, and a change not
accepted by a sample sets its run count to 0 (R105, R106; log 4). -/
def levelState (n : Fin 18) (active : Bool) (s : State) : State :=
  if inputActive s n = active then { s with bus := { upstream := [], downstream := [] } }
  else
    { s with lines := { s.lines with accepted := setLevel s.lines.accepted n (active != (setting s n).inverted)
                                     runs := s.lines.runs.set n.val 0 }
             bus := { upstream := [], downstream := [] } }

/-! ## Samples (R105) -/

/-- A sampled input whose change did not persist at a sample: its sample equal to the accepted level, its run count above
0. -/
abbrev Glitched (levels : BitVec 18) (s : State) (n : Fin 18) : Prop :=
  levels.getLsbD n.val = s.lines.accepted.getLsbD n.val ∧ s.lines.runs.getD n.val 0 ≠ 0

/-- A sampled input whose change is accepted at a sample. -/
abbrev Accepted (levels : BitVec 18) (s : State) (n : Fin 18) : Prop :=
  levels.getLsbD n.val ≠ s.lines.accepted.getLsbD n.val ∧
    (setting s n).debounce ≤ (s.lines.runs.getD n.val 0).toNat

/-- An accepted change that is an edge: of an enabled edge input, to its active level (R106). -/
abbrev EdgeAt (levels : BitVec 18) (s : State) (n : Fin 18) : Prop :=
  Accepted levels s n ∧ n.val ≤ 14 ∧ (setting s n).enabled = true ∧
    levels.getLsbD n.val = !(setting s n).inverted

/-! ## Tally reports -/

/-- A receiver's counts after a report (R75). -/
def reportCounted (k : Ply) (malformed ignored : Bool) (s : State) : State :=
  { s with tally := s.tally.set k { s.tally.get k with
      reports := (s.tally.get k).reports + 1
      malformed := (s.tally.get k).malformed + (if malformed then 1 else 0)
      ignored := (s.tally.get k).ignored + (if ignored then 1 else 0) } }

/-- A set after a report of ply k: its tally state and, where the report blames it, a cause with the ply (R78, R80). -/
def judged (k : Ply) (st : TallyState) (c : Option Cause) (e : SetEntry) : SetEntry :=
  { e with
    tally := e.tally.set k st
    causes := e.causes ||| (c.map fun c => BitVec.twoPow 14 c.num).getD 0
    plies := e.plies ||| (if c.isSome then BitVec.twoPow 6 k.val else 0) }

/-- The state with the set at the collator replaced. -/
def atCollator (t : Ticket) (e : SetEntry) (s : State) : State :=
  { s with pipe := { s.pipe with entries := s.pipe.entries.modify t.collator fun _ => .set e } }

/-- A number report agrees with a value: on its digits, or, with a tally check digit, on all but the last, two or more in
number, the last the value's check digit (R77 to R79). -/
def Agrees (check : Bool) (m : CheckMethod) (v : Word) (ds : List (Fin 10)) : Prop :=
  (check = false ∧ decimal ds = v.toNat) ∨
    (check = true ∧ ∃ ys c, ds = ys ++ [c] ∧ ys ≠ [] ∧ decimal ys = v.toNat ∧ checkResult m v = some c.val)

/-! ## Faults and outputs -/

/-- The history entry a raise writes (R181). -/
def historyEntry (kind : FaultKind) (ply : BitVec 3) (serial : Word) (s : State) : HistoryEntry :=
  { kind, ply, serial, stamp := s.pipe.pitchCount }

/-- The report block after a raise (R179, R181). -/
def recorded (kind : FaultKind) (ply : BitVec 3) (serial : Word) (s : State) : Report :=
  { s.report with
    flags := s.report.flags ||| BitVec.twoPow 17 kind.num
    slots := s.report.slots.set s.report.head.toNat (some (historyEntry kind ply serial s))
    head := s.report.head + 1
    total := if s.report.total = 65535 then 65535 else s.report.total + 1 }

/-- The state between two commands, its faces idle (log 11). -/
abbrev quiet (s : State) : State := { s with bus := { upstream := [], downstream := [] } }

/-- The action in force of a kind (R178, R179): HALT for three kinds, else the active ticket's, else the default. -/
def actsAs (s : State) (kind : FaultKind) : FaultAction :=
  if kind = .webBreak ∨ kind = .jam ∨ kind = .storeFault then .halt
  else match s.ticket.active with
    | none => kind.defaultAction
    | some t => ((kind.actionIndex.bind fun j => actionCode t.actions j)).getD kind.defaultAction

/-- The state halted by a fault (R89, R123, R125): a PENDING entry BLANK, HALT marked on every set, the snapshot taken. -/
def haltedBy (kind : FaultKind) (ply : BitVec 3) (serial : Word) (s : State) : State :=
  let u : State := { s with pipe :=
    { blanked s.pipe with entries := (blanked s.pipe).entries.map (withCause .halt) } }
  { u with ctl := { s.ctl with
      job := .halted
      snapshot :=
        { valid := true, stamp := s.pipe.pitchCount, prev := s.ctl.job, kind := some kind, ply, serial
          serials := ⟨serialAtHead u 0, serialAtHead u 1, serialAtHead u 2, serialAtHead u 3, serialAtHead u 4,
            serialAtHead u 5⟩
          images := ⟨imageAtHead u 0, imageAtHead u 1, imageAtHead u 2, imageAtHead u 3, imageAtHead u 4,
            imageAtHead u 5⟩
          serialC := (entryAt u (collatorOf u)).serialOf
          serialG := (entryAt u (gateDistOf u - 1)).serialOf } } }

/-- An action applied by the job state it finds (R122, R123). -/
def acted (act : FaultAction) (kind : FaultKind) (ply : BitVec 3) (serial : Word) (s : State) : State :=
  match act with
  | .carryOn => s
  | .hold =>
    if s.ctl.job = .run then { s with pipe := blanked s.pipe, ctl := { s.ctl with job := .hold, fault := true } } else s
  | .halt =>
    if s.ctl.job = .run ∨ s.ctl.job = .hold ∨ s.ctl.job = .drain then haltedBy kind ply serial s else s

/-! ## Completed operations of the store (R128, R130, R134, R135) -/

/-- A slot programmed with an entry. -/
def written (i : SectorId) (n : Nat) (x : Slot) (s : State) : State :=
  { quiet s with store := { s.store with array := s.store.array.set i (Sector.program n x (s.store.array.get i)) } }

/-- What follows a completion's notices: the resource falls free, recovery may end, the store chooses its next operation, and
the responses released are taken. -/
def freed (s : State) : State := settle (chooseNext (endRecovery { s with store := { s.store with op := none } }))

/-- The head request gone, the book table another one (R132, R135). -/
def answered (table : List BookRow) (s : State) : State :=
  { s with store := { s.store with table, queue := s.store.queue.tail, retried := false } }

/-- Stream i's request answered: the flag clear, the limit as the answer leaves it (R17, R18). -/
def limited (i : StreamId) (limit : Option Word) (s : State) : State :=
  { s with streams := { s.streams with each := s.streams.each.set i { streamAt s i with limit, inFlight := false } } }

/-- Stream i's renewal asked for where it is due, but not in CLOSING, while the resource is busy: its request joins the queue
where it has room, and is refused by a full queue and by a FAILED store (R16 to R18, R133, R190). -/
def renewed (i : StreamId) (s : State) : State :=
  match s.ticket.active with
  | none => s
  | some t =>
    match if s.ctl.job = .closing then none else renewalAsked t s i with
    | none => s
    | some l =>
      let accepted := decide (s.store.queue.length < 40) && !(match s.store.phase with | .failed _ => true | _ => false)
      { s with
        streams := { s.streams with each := s.streams.each.set i (askedStream (some l) accepted (streamAt s i)) }
        store := { s.store with queue := s.store.queue ++
          if accepted then [.reservation i (t.streams.get i).book (t.streams.get i).dir l] else [] } }

/-! ## After a reset -/

/-- The blocks after a reset of either kind, before its scan (the sectors and the last sequence by log 1): what R2, R20,
R45, R55, R66, R70, R85, R86, R94, R96, R98, R105, R109, R110, R112, R114, R115, R121, R125, R140, R149, R169 and R185
give. -/
structure ResetBlocks (t : State) : Prop where
  streams : ∀ i, t.streams.each.get i =
    { status := .inactive, v := 0, u := 0, limit := none, inFlight := false, requested := 0, drawn := false,
      firstDrawn := 0, lastDrawn := 0, valuesDrawn := 0 }
  generator : t.streams.generator = 0
  pipe : t.pipe = { entries := [], pitchCount := 0, opened := 0, reserveWait := 0 }
  feeders : ∀ k, t.path.feeders.get k =
    { cont := none, queue := [], held := false, timer := none, slotReads := 0, strays := 0 }
  tally : ∀ k, t.tally.get k = { line := .off, assembly := .empty, reports := 0, malformed := 0, ignored := 0 }
  spoil : t.spoil = { zones := .const 0, remakes := [], good := 0, void := 0, remade := 0, blank := 0, gate := true }
  lines : t.lines =
    { accepted := 0, runs := List.replicate 18 0, sampled := false, raised := [], holdreq := false,
      pwrwarn := false, glitches := 0 }
  timer : t.timer = { encoder := 0, deadlineMade := false, earlyCues := 0, makeReady := 0 }
  job : t.ctl.job = .idle ∧ t.ctl.command = false ∧ t.ctl.fault = false ∧ t.ctl.inOperation = false ∧ t.ctl.claims = []
  snapshot : t.ctl.snapshot =
    { valid := false, stamp := 0, prev := .idle, kind := none, ply := 0, serial := 0, serials := .const 0,
      images := .const .none, serialC := 0, serialG := 0 }
  words : t.ticket.staged = List.replicate 128 0 ∧ t.ticket.arg1 = 0 ∧ t.ticket.arg2 = 0 ∧ t.ticket.active = none ∧
    t.ticket.waiting = none ∧ t.ticket.partials = 0
  result : t.ticket.result =
    { code := 0, tag := 0, result := .none, check := 0, detail := 0, echo1 := 0, echo2 := 0 }
  store : t.store.table = [] ∧ t.store.queue = [] ∧ t.store.op = none ∧ t.store.compaction = none ∧
    t.store.phase = .recovering ∧ t.store.quiesced = false ∧ t.store.scanMade = false ∧ t.store.sectors = .const .erased ∧
    t.store.lastSeq = 0
  report : t.report.queue = [] ∧ t.report.flags = 0

/-- The outputs as R94, R124, R182 and R183 give them after a reset. -/
abbrev OutputsAtReset (t : State) : Prop :=
  t.spoil.gate = true ∧ pressHold t = false ∧ estop t = false ∧ faultOut t = false ∧ attnOut t = false

/-- The entries the scan reads: those that pass their check in a sector with a valid header (R143). -/
def scanReads (a : Four Sector) (e : Slot) : Prop :=
  ∃ i n, (Sector.generation (a.get i)).isSome = true ∧ (n, e) ∈ a.get i ∧ e.sound = true

/-! ## The report area (sections 11.4.1 to 11.4.7) -/

/-- A word made up of fields, each a number with its lowest bit's place: every other bit reads 0 (R197). -/
def Spells (w : Word) (fields : List (Nat × Nat)) : Prop := w.toNat = (fields.map fun x => x.1 * 2 ^ x.2).sum

/-- The lists the report area shows have no more members than their fields can say (R170, R181, R98, R133, R132). -/
structure Fits (s : State) : Prop where
  slots : s.report.slots.length = 16
  queue : s.report.queue.length ≤ 128
  remakes : s.spoil.remakes.length ≤ 32
  requests : s.store.queue.length ≤ 40
  rows : s.store.table.length ≤ 32

/-- Status and command result (section 11.4.2). -/
structure StatusShown (s : State) : Prop where
  word0 : Spells (reportWord s 0x8000)
    [(s.ctl.job.code, 0), (s.ctl.command.toNat, 4), (s.ctl.fault.toNat, 5), (s.lines.holdreq.toNat, 6),
      ((decide (48 ≤ s.report.queue.length)).toNat, 7),
      (match s.ticket.active with | some t => t.policy.code | none => 0, 8), (s.ticket.waiting.isSome.toNat, 10),
      (s.ctl.snapshot.valid.toNat, 11), (s.ticket.partials.toNat, 16), (s.spoil.remakes.length, 24)]
  job : reportWord s 0x8004 = match s.ticket.active with | some t => t.jobId | none => 0
  word2 : Spells (reportWord s 0x8008)
    [(match s.ticket.waiting with
        | some p => (match p.kind with | .close => 7 | .retire => 9)
        | none => 0, 0),
      (match s.ticket.waiting with | some p => p.tag.toNat | none => 0, 8), (s.report.queue.length, 16)]
  result : Spells (reportWord s 0x8040)
    [(s.ticket.result.code.toNat, 0), (s.ticket.result.tag.toNat, 8), (s.ticket.result.result.code, 16),
      (s.ticket.result.check.toNat, 24)]
  echo : reportWord s 0x8044 = s.ticket.result.detail ∧ reportWord s 0x8048 = s.ticket.result.echo1 ∧
    reportWord s 0x804C = s.ticket.result.echo2

/-- Fault flags, line levels and outputs (section 11.4.2). -/
structure LinesShown (s : State) : Prop where
  flags : ∀ n < 32, (reportWord s 0x8060).getLsbD n = s.report.flags.getLsbD n
  levels : ∀ n < 32, (reportWord s 0x8080).getLsbD n = (decide (n ≠ 0) && s.lines.accepted.getLsbD n)
  active : ∀ n < 32, (reportWord s 0x8084).getLsbD n = true ↔ ∃ i : Fin 18, i.val = n ∧ i ≠ 0 ∧ inputActive s i = true
  outputs : Spells (reportWord s 0x8088)
    [(s.spoil.gate.toNat, 0), ((pressHold s).toNat, 1), ((estop s).toNat, 2), ((faultOut s).toNat, 3),
      ((attnOut s).toNat, 4)]

/-- Counts, streams and plies (section 11.4.3). -/
structure CountsShown (s : State) : Prop where
  pitches : reportWord s 0x80C0 = s.pipe.pitchCount ∧ reportWord s 0x80C4 = s.pipe.opened ∧
    reportWord s 0x80C8 = s.pipe.reserveWait
  decisions : reportWord s 0x80CC = s.spoil.good ∧ reportWord s 0x80D0 = s.spoil.void ∧
    reportWord s 0x80D4 = s.spoil.remade ∧ reportWord s 0x80D8 = s.spoil.blank
  events : reportWord s 0x80DC = s.timer.makeReady ∧ reportWord s 0x80E0 = s.lines.glitches ∧
    reportWord s 0x80E4 = s.timer.earlyCues
  stream : ∀ i : StreamId, Spells (reportWord s (0x8100 + 32 * i.val))
    [((streamAt s i).status.code, 0), ((streamAt s i).limit.isSome.toNat, 4), ((streamAt s i).inFlight.toNat, 5),
      ((streamAt s i).drawn.toNat, 6), ((streamAt s i).u.toNat, 16)]
  values : ∀ i : StreamId, reportWord s (0x8104 + 32 * i.val) = (streamAt s i).v ∧
    reportWord s (0x8108 + 32 * i.val) = (streamAt s i).limit.getD 0 ∧
    reportWord s (0x810C + 32 * i.val) = (streamAt s i).requested
  draws : ∀ i : StreamId, reportWord s (0x8110 + 32 * i.val) = (streamAt s i).firstDrawn ∧
    reportWord s (0x8114 + 32 * i.val) = (streamAt s i).lastDrawn ∧
    reportWord s (0x8118 + 32 * i.val) = (streamAt s i).valuesDrawn ∧ reportWord s (0x811C + 32 * i.val) = 0
  ply : ∀ k : Ply, Spells (reportWord s (0x8180 + 8 * k.val))
    [((feeder s k).slotReads.toNat, 0), ((feeder s k).strays.toNat, 8), ((s.tally.get k).reports.toNat, 16),
      ((s.tally.get k).malformed.toNat, 24)]
  ignored : ∀ k : Ply, Spells (reportWord s (0x8184 + 8 * k.val)) [((s.tally.get k).ignored.toNat, 0)]

/-- The eight words of a record in the disposition view (section 11.4.4). -/
def RecordShown (s : State) : Record → Prop
  | .ofSet kind serial attempt stamp causes plies values =>
    Spells (reportWord s 0x81C0)
      [(match kind with | .good => 1 | .void => 2 | .remake => 3 | .proofGood => 4 | .proofVoid => 5, 0),
        (attempt.toNat, 4), ((values.get 0).isSome.toNat, 8), ((values.get 1).isSome.toNat, 9),
        ((values.get 2).isSome.toNat, 10), ((values.get 3).isSome.toNat, 11), (plies.toNat, 12)] ∧
    reportWord s 0x81C4 = serial ∧ reportWord s 0x81C8 = stamp ∧ Spells (reportWord s 0x81CC) [(causes.toNat, 0)] ∧
    ∀ i : StreamId, reportWord s (0x81D0 + 4 * i.val) = (values.get i).getD 0
  | .recovery book high =>
    Spells (reportWord s 0x81C0) [(6, 0)] ∧ reportWord s 0x81C4 = book ∧ reportWord s 0x81CC = high ∧
    ∀ off ∈ [0x81C8, 0x81D0, 0x81D4, 0x81D8, 0x81DC], reportWord s off = 0
  | .stream i stamp first last drawn good void remade =>
    Spells (reportWord s 0x81C0) [(7, 0), (i.val, 20)] ∧ reportWord s 0x81C4 = first ∧ reportWord s 0x81C8 = stamp ∧
    reportWord s 0x81CC = last ∧ reportWord s 0x81D0 = drawn ∧ reportWord s 0x81D4 = good ∧
    reportWord s 0x81D8 = void ∧ reportWord s 0x81DC = remade
  | .job stamp opened good void blank reserveWait =>
    Spells (reportWord s 0x81C0) [(7, 0), (4, 20)] ∧ reportWord s 0x81C4 = opened ∧ reportWord s 0x81C8 = stamp ∧
    reportWord s 0x81CC = good ∧ reportWord s 0x81D0 = void ∧ reportWord s 0x81D4 = blank ∧
    reportWord s 0x81D8 = reserveWait ∧ reportWord s 0x81DC = 0

/-- The disposition view and the POP word (R173, R174, section 11.4.4). -/
structure QueueShown (s : State) : Prop where
  empty : s.report.queue = [] → ∀ j < 8, reportWord s (0x81C0 + 4 * j) = 0
  head : ∀ r rest, s.report.queue = r :: rest → RecordShown s r
  level : Spells (reportWord s 0x81E0) [(s.report.queue.length, 0)]

/-- A fault kind's code: its number plus 1, 0 for none (R194). -/
def codeOfKind : Option FaultKind → Nat
  | some k => k.num + 1
  | none => 0

/-- Halt snapshot and fault history (sections 11.4.5 and 11.4.6). -/
structure HistoryShown (s : State) : Prop where
  snapshot : Spells (reportWord s 0x8200)
    [(s.ctl.snapshot.valid.toNat, 0), (s.ctl.snapshot.prev.code, 4), (codeOfKind s.ctl.snapshot.kind, 8),
      (s.ctl.snapshot.ply.toNat, 16)]
  cause : reportWord s 0x8204 = s.ctl.snapshot.stamp ∧ reportWord s 0x8208 = s.ctl.snapshot.serial
  serials : ∀ k : Ply, reportWord s (0x820C + 4 * k.val) = s.ctl.snapshot.serials.get k
  images : Spells (reportWord s 0x8224) (plies.map fun k => ((s.ctl.snapshot.images.get k).code, 2 * k.val))
  ends : reportWord s 0x8228 = s.ctl.snapshot.serialC ∧ reportWord s 0x822C = s.ctl.snapshot.serialG
  ring : Spells (reportWord s 0x8240) [(s.report.head.toNat, 0), (s.report.total.toNat, 16)]
  filled : ∀ j e, s.report.slots[j]? = some (some e) →
    Spells (reportWord s (0x8280 + 16 * j)) [(codeOfKind (some e.kind), 0), (e.ply.toNat, 8)] ∧
    reportWord s (0x8284 + 16 * j) = e.serial ∧ reportWord s (0x8288 + 16 * j) = e.stamp ∧
    reportWord s (0x828C + 16 * j) = 0
  unfilled : ∀ j, s.report.slots[j]? = some none → ∀ i < 4, reportWord s (0x8280 + 16 * j + 4 * i) = 0

/-- A sector's number, or 4 for none (R197). -/
def sectorOrNone : Option SectorId → Nat
  | some i => i.val
  | none => 4

/-- The store view (section 11.4.7). -/
structure StoreShown (s : State) : Prop where
  word0 : Spells (reportWord s 0x8400)
    [(match s.store.phase with
        | .failed _ => 3
        | .recovering => if s.store.quiesced then 2 else 0
        | .inService => if s.store.quiesced then 2 else 1, 0),
      (match s.store.phase with | .failed .sectors => 1 | .failed .worn => 2 | _ => 0, 2),
      (match s.store.phase with | .recovering => 0 | _ => 1, 4),
      (match s.store.op with | none => 0 | some (.erase _) => 2 | some _ => 1, 8),
      (sectorOrNone s.store.active, 12), (sectorOrNone (s.store.compaction.map (·.target)), 16)]
  sectors : Spells (reportWord s 0x8404) (fours.map fun i => ((s.store.sectors.get i).code, 4 * i.val))
  sizes : Spells (reportWord s 0x8408)
    [(match s.store.active with | some a => Sector.free (s.store.array.get a) | none => 0, 0),
      (s.store.queue.length, 16), (s.store.table.length, 24)]
  generation : reportWord s 0x840C = match s.store.active with
    | some a => (Sector.generation (s.store.array.get a)).getD 0
    | none => 0
  sequence : reportWord s 0x8410 = s.store.lastSeq

/-- The map of the report area: each view's first offset and its number of words (section 11.4.1). -/
def viewMap : List (Nat × Nat) :=
  [(0x8000, 3), (0x8040, 4), (0x8060, 1), (0x8080, 3), (0x80C0, 10), (0x8100, 32), (0x8180, 12), (0x81C0, 8),
    (0x81E0, 1), (0x8200, 12), (0x8240, 1), (0x8280, 64), (0x8400, 5)]

end Sys2Proof.Safety
end

