-- ==== Sys2Proof/Certificates/Slice0/Obligations.lean ====
section
/-! DEFINITION. Certificates/Slice0/Obligations.lean: the statements about the part, one `Obligations.<Name>` each, in the
order of OBLIGATIONS.json. -/

open Sys2Proof Sys2Proof.Machine Sys2Proof.Safety

/-! ## The machine -/

/-- The command at the front of the queue is run on the state with the queue's rest. -/
def Obligations.StepTakesFrontCommand : Prop :=
  ∀ (c : Instr) (rest : List Instr) (s : State),
    step { s with pending := c :: rest } = exec c { s with pending := rest }

/-- Every command completes with a next state, and none touches the queue of commands. -/
def Obligations.EveryCommandCompletes : Prop :=
  ∀ (c : Instr) (s : State), ∃ t, exec c s = .next t ∧ t.pending = s.pending

/-- The state after power-on reset, the RESET line released and the scan not made: every block at its reset value; the
straps at 0 and the array never written (the model's choices, log 1 and log 17). The invariants hold in it. -/
def Obligations.ResetStateValues : Prop :=
  ResetBlocks State.reset ∧ OutputsAtReset State.reset ∧
  State.reset.report.slots = List.replicate 16 none ∧ State.reset.report.head = 0 ∧ State.reset.report.total = 0 ∧
  State.reset.path.wbase = 0 ∧ (∀ i, State.reset.store.array.get i = []) ∧ State.reset.resetting = false ∧
  State.reset.pending = [] ∧
  arrayWf State.reset.store.array = true ∧ Settled State.reset ∧ PipelineShape State.reset ∧ Sizes State.reset ∧
  QueueBound State.reset ∧ BookBound State.reset

/-- Every step keeps the array in canonical form. -/
def Obligations.ArrayFormKeptByStep : Prop :=
  ∀ s t : State, arrayWf s.store.array = true → step s = .next t → arrayWf t.store.array = true

/-- Every step keeps the pipeline's shape: G entries in the running states and none in the others, a PENDING entry only
at position 0 and only in RUN. -/
def Obligations.PipelineShapeKeptByStep : Prop :=
  ∀ s t : State, Settled s → PipelineShape s → step s = .next t → Settled t ∧ PipelineShape t

/-- Every step keeps the sizes: 128 staged words, 16 history slots, 18 run counts, at most 32 remakes and 40 requests; the
disposition queue within its 128 records (R175), and the book table within its 32 rows with distinct book ids (R132), where
a scan the step may make finds no more live books than those. -/
def Obligations.SizesKeptByStep : Prop :=
  ∀ s t : State, step s = .next t →
    (Sizes s → Sizes t) ∧
    (Settled s → PipelineShape s → Sizes s → ScanFits s → QueueBound s → QueueBound t ∧ t.report.queue.length ≤ 128) ∧
    (ScanFits s → BookBound s → BookBound t ∧ t.store.table.length ≤ 32)

/-! ## Resets -/

/-- A reset from any state: the blocks at their reset values; every response held back sent upstream unaltered, each
feeder's in issue order (R51); the array stays but for the operation cut off, whose slot or sector holds what the
interruption left (log 8); the RESET line held after it or not (log 17). At power-on the straps are sampled and the
history emptied; at a warm reset the window and the history stay (R52, R127, R185). -/
def Obligations.ResetLeavesBlocks : Prop :=
  ∀ (straps : Byte) (cut : Cut) (s : State),
    ∀ c ∈ [Instr.powerOnReset straps cut, Instr.warmReset cut],
    ∃ t, exec c s = .next t ∧ ResetBlocks t ∧ OutputsAtReset t ∧ t.resetting = cut.held ∧
      t.store.array = cutArray cut s.store ∧ t.bus.downstream = [] ∧
      (∀ k : Ply, (t.bus.upstream.filter fun x => x.1 == feederId k).map (·.2) = (feeder s k).queue) ∧
      (∀ x ∈ t.bus.upstream, ∃ k : Ply, x.1 = feederId k) ∧
      (c = .powerOnReset straps cut → t.path.wbase = straps ∧ t.report.slots = List.replicate 16 none ∧
        t.report.head = 0 ∧ t.report.total = 0) ∧
      (c = .warmReset cut → t.path.wbase = s.path.wbase ∧ t.report.slots = s.report.slots ∧
        t.report.head = s.report.head ∧ t.report.total = s.report.total)

/-- What a reset cuts off (log 8): no operation, nothing; a programming, its one slot erased, torn or whole; an erase, its
sector's slots each kept, failing its check, or erased. -/
def Obligations.ResetCutsOperationOff : Prop :=
  ∀ (cut : Cut) (st : Store),
    (st.op = none → cutArray cut st = st.array) ∧
    (∀ i n seq body, st.op = some (.append i n seq body) ∨ st.op = some (.step i n seq body) →
      (∀ j, j ≠ i → (cutArray cut st).get j = st.array.get j) ∧
      (∀ m, m ≠ n → Sector.slot ((cutArray cut st).get i) m = Sector.slot (st.array.get i) m) ∧
      Sector.slot ((cutArray cut st).get i) n = match cut.program with
        | .erased => Sector.slot (st.array.get i) n
        | .torn => some { seq, body, sound := false }
        | .whole => some { seq, body, sound := true }) ∧
    (∀ i, st.op = some (.erase i) → Sector.wf (st.array.get i) = true →
      (∀ j, j ≠ i → (cutArray cut st).get j = st.array.get j) ∧
      ∀ m, Sector.slot ((cutArray cut st).get i) m =
        if m ∈ cut.kept then Sector.slot (st.array.get i) m
        else if m ∈ cut.torn then (Sector.slot (st.array.get i) m).map (fun x => { x with sound := false })
        else none)

/-- The scan classifies each sector by its contents and its header and takes the highest sequence of an entry that passes
its check (R142); it rebuilds each book's row from its latest entry in the sectors with a valid header, the rows in
ascending order of book id (R143). -/
def Obligations.ScanRebuildsStore : Prop :=
  ∀ (st : Store) (i : SectorId) (book : Word),
    (st.array.get i = [] → (scanned st).sectors.get i = .erased) ∧
    (st.array.get i ≠ [] → Sector.generation (st.array.get i) = none → (scanned st).sectors.get i = .full) ∧
    (∀ g, Sector.generation (st.array.get i) = some g →
      (∀ j h, j ≠ i → Sector.generation (st.array.get j) = some h →
        h.toNat < g.toNat ∨ (h = g ∧ headerSeq (st.array.get j) < headerSeq (st.array.get i))) →
      (scanned st).sectors.get i = .active) ∧
    (∀ g j h, Sector.generation (st.array.get i) = some g → Sector.generation (st.array.get j) = some h →
      (g.toNat < h.toNat ∨ (g = h ∧ headerSeq (st.array.get i) < headerSeq (st.array.get j))) →
      (scanned st).sectors.get i = .full) ∧
    (∀ n e, (n, e) ∈ st.array.get i → e.sound = true → e.seq.toNat ≤ (scanned st).lastSeq.toNat) ∧
    ((scanned st).lastSeq = 0 ∨
      ∃ j n e, (n, e) ∈ st.array.get j ∧ e.sound = true ∧ e.seq = (scanned st).lastSeq) ∧
    (scanned st).table.Pairwise (fun x y => x.book.toNat < y.book.toNat) ∧
    ((∀ e, scanReads st.array e → bookOf e.body ≠ some book) → (scanned st).row book = none) ∧
    ∀ e, scanReads st.array e → bookOf e.body = some book →
      (∀ f, scanReads st.array f → bookOf f.body = some book → f ≠ e → f.seq.toNat < e.seq.toNat) →
      (scanned st).row book = match e.body with
        | .reserve b d v em p => some { book := b, dir := d, high := v, opened := true, empty := em, prior := p }
        | .close b d v em => some { book := b, dir := d, high := v, opened := false, empty := em, prior := some v }
        | .copy b d h o em p => some { book := b, dir := d, high := h, opened := o, empty := em, prior := p }
        | _ => none

/-- RECOVERY_SCAN, once after each reset, with the RESET line released (log 17): the array stays, the table and the sectors
are as the scan finds them but for an erase it may start; each OPEN book gives a RECOVERY record and a queued recovery close,
in ascending order of book id (R144). Recovery ends, at once or later, when an ACTIVE sector exists and no recovery close is
left, but not while QUIESCED: at the scan, at the close append that is the last to verify or to fail, at the header that
makes a sector ACTIVE (R144). -/
def Obligations.RecoveryScanEndsReset : Prop :=
  (∀ s : State, s.resetting = true ∨ s.store.scanMade = true → exec .recoveryScan s = .next (quiet s)) ∧
  (∀ (s : State) (opened : List BookRow), opened = (scanned s.store).table.filter (·.opened) →
    s.resetting = false → s.store.scanMade = false → s.store.op = none → s.store.queue = [] →
    s.store.compaction = none → s.store.phase = .recovering → s.store.quiesced = false →
    ∃ t, exec .recoveryScan s = .next t ∧ t.resetting = false ∧ t.store.scanMade = true ∧
      t.store.array = s.store.array ∧ t.store.table = (scanned s.store).table ∧
      (∀ i, t.store.sectors.get i = (scanned s.store).sectors.get i ∨
        ((scanned s.store).sectors.get i = .full ∧ t.store.sectors.get i = .erasing)) ∧
      t.report.queue = s.report.queue ++ opened.map (fun r => Record.recovery r.book r.high) ∧
      ((scanned s.store).lastSeq = 0xFFFFFFFE → t.store.phase = .failed .worn ∧ t.store.queue = []) ∧
      ((scanned s.store).lastSeq ≠ 0xFFFFFFFE →
        (opened.length ≤ 40 → t.store.queue = opened.map (fun r => Request.recoveryClose r.book)) ∧
        t.store.phase = if (scanned s.store).active ≠ none ∧ opened = [] then .inService else .recovering)) ∧
  (∀ s : State,
    (s.store.phase = .recovering → s.store.quiesced = false → s.store.active ≠ none →
      (∀ r ∈ s.store.queue, r.isRecoveryClose = false) →
      endRecovery s = { s with store := { s.store with phase := .inService } }) ∧
    (s.store.phase ≠ .recovering ∨ s.store.quiesced = true ∨ s.store.active = none ∨
      (∃ r ∈ s.store.queue, r.isRecoveryClose = true) → endRecovery s = s)) ∧
  (∀ (s : State) (i : SectorId) (n : Nat) (seq : Word) (body : EntryBody) (v : Bool) (b : Word) (rest : List Request),
    s.store.op = some (.append i n seq body) → seq ≠ 0xFFFFFFFE → s.store.queue = .recoveryClose b :: rest →
    v = true ∨ s.store.retried = true → s.store.phase = .recovering → s.store.quiesced = false →
    s.store.active ≠ none →
    ∃ t, exec (.appendCompletion v) s = .next t ∧
      t.store.phase = if ∃ r ∈ rest, r.isRecoveryClose = true then .recovering else .inService) ∧
  (∀ (s : State) (i : SectorId) (n : Nat) (seq g : Word) (c : Compaction),
    s.store.op = some (.step i n seq (.header g)) → s.store.compaction = some c → seq ≠ 0xFFFFFFFE →
    s.store.phase = .recovering → s.store.quiesced = false → (∀ r ∈ s.store.queue, r.isRecoveryClose = false) →
    ∃ t, exec (.compactionStepCompletion true) s = .next t ∧ t.store.phase = .inService)

/-! ## Commands of the press controller -/

/-- A taken command is answered BUSY while one is pending; else UNKNOWN where its code is no command; else by its own
rule (R163). The check field of a LOAD answered BUSY is 0 (log 24). While the RESET line is held the write passes and no
command is taken (R51). -/
def Obligations.TakenCommandAnswered : Prop :=
  ∀ (code : Byte) (w : CommandWrite) (s : State), w.wf = true →
    (s.resetting = true → exec (fullWrite code w) s =
      .next { s with bus := { upstream := [], downstream := [(0, commandAccess code w s)] } }) ∧
    (s.resetting = false →
      (∀ p, s.ticket.waiting = some p → exec (fullWrite code w) s =
        .next (withResult code w.tag .busy 0 (match p.kind with | .close => 7 | .retire => 9) (arrived code w s))) ∧
      (s.ticket.waiting = none → ¬(1 ≤ code.toNat ∧ code.toNat ≤ 11) → exec (.unknownCommand code w) s =
        .next (withResult code w.tag .unknown 0 (code.setWidth 32) (arrived code w s))) ∧
      (s.ticket.waiting = none → 1 ≤ code.toNat → code.toNat ≤ 11 → exec (fullWrite code w) s =
        .next (commandOf code w.tag (arrived code w s))))

/-- A write of the command word with fewer than four byte enables takes no command and is counted; the rest of the access
is staged (R162). While the RESET line is held it passes and nothing is taken (R51). -/
def Obligations.PartialCommandWriteCounted : Prop :=
  ∀ (c : WordWrite) (a1 a2 : Option WordWrite) (s u : State), (Instr.partialCommandWrite c a1 a2).wf = true →
    u = { s with bus := { upstream := [],
                          downstream := [(0, { addr := commandAddr s, body := .write (commandBurst c a1 a2) })] } } →
    (s.resetting = true → exec (.partialCommandWrite c a1 a2) s = .next u) ∧
    (s.resetting = false → exec (.partialCommandWrite c a1 a2) s = .next { u with
      ticket := { s.ticket with arg1 := shadow s.ticket.arg1 a1, arg2 := shadow s.ticket.arg2 a2,
                                partials := s.ticket.partials + 1 } })

/-- A byte whose enable is set takes the written byte, and one whose enable is clear keeps its value (R151); that enable i
goes with bits 8i+7 to 8i is the model's reading (DEDUCED, log 10). -/
def Obligations.ByteEnablesSelectBytes : Prop :=
  ∀ (old : Word) (w : WordWrite) (i : Fin 4),
    (mergeBytes old w).extractLsb' (8 * i.val) 8 =
      if w.enables.getLsbD i.val then w.data.extractLsb' (8 * i.val) 8 else old.extractLsb' (8 * i.val) 8

/-- A write access stages its ticket words and argument words byte by byte and passes downstream; it changes nothing
else, but that a command word in it is counted if partial, answered BUSY while a command is pending (the check field of a
LOAD 0, by log 24), and else taken after the rest is staged. While the RESET line is held it passes and nothing is taken
(R51). -/
def Obligations.StagingWriteMergesWords : Prop :=
  (∀ (a : Addr) (ws : List WordWrite) (s : State), s.resetting = true → exec (.stagingWrite a ws) s =
    .next { s with bus := { upstream := [], downstream := [(0, { addr := a, body := .write ws })] } }) ∧
  ∀ (a : Addr) (ws : List WordWrite) (s : State), (Instr.stagingWrite a ws).wf = true → s.resetting = false →
    s.ticket.staged.length = 128 →
    ∃ u : State,
      u = { s with bus := u.bus,
                   ticket := { s.ticket with staged := u.ticket.staged, arg1 := u.ticket.arg1, arg2 := u.ticket.arg2 } } ∧
      u.bus = { upstream := [], downstream := [(0, { addr := a, body := .write ws })] } ∧
      u.ticket.staged.length = 128 ∧
      (∀ i < 128, ∀ j (h : j < ws.length), wordAddr a j = windowBase s.path.wbase + BitVec.ofNat 28 (4 * i) →
        stagedWord u.ticket.staged i = mergeBytes (stagedWord s.ticket.staged i) ws[j]) ∧
      (∀ i < 128, (∀ j < ws.length, wordAddr a j ≠ windowBase s.path.wbase + BitVec.ofNat 28 (4 * i)) →
        stagedWord u.ticket.staged i = stagedWord s.ticket.staged i) ∧
      (∀ j (h : j < ws.length), wordAddr a j = windowBase s.path.wbase + 0x404 →
        u.ticket.arg1 = mergeBytes s.ticket.arg1 ws[j]) ∧
      ((∀ j < ws.length, wordAddr a j ≠ windowBase s.path.wbase + 0x404) → u.ticket.arg1 = s.ticket.arg1) ∧
      (∀ j (h : j < ws.length), wordAddr a j = windowBase s.path.wbase + 0x408 →
        u.ticket.arg2 = mergeBytes s.ticket.arg2 ws[j]) ∧
      ((∀ j < ws.length, wordAddr a j ≠ windowBase s.path.wbase + 0x408) → u.ticket.arg2 = s.ticket.arg2) ∧
      ((∀ j < ws.length, wordAddr a j ≠ windowBase s.path.wbase + 0x400) → exec (.stagingWrite a ws) s = .next u) ∧
      (∀ j (h : j < ws.length), wordAddr a j = windowBase s.path.wbase + 0x400 →
        (ws[j].enables ≠ 15 → exec (.stagingWrite a ws) s =
          .next { u with ticket := { u.ticket with partials := s.ticket.partials + 1 } }) ∧
        (ws[j].enables = 15 → ∀ p, s.ticket.waiting = some p → exec (.stagingWrite a ws) s =
          .next (withResult (ws[j].data.extractLsb' 0 8) (ws[j].data.extractLsb' 8 8) .busy 0
            (match p.kind with | .close => 7 | .retire => 9) u)) ∧
        (ws[j].enables = 15 → s.ticket.waiting = none → exec (.stagingWrite a ws) s =
          .next (commandOf (ws[j].data.extractLsb' 0 8) (ws[j].data.extractLsb' 8 8) u)))

/-- LOAD outside IDLE is answered STATE with the job state, its check field 0 (log 24); in IDLE the check sum is judged
first, then the fields, where the first word with an out-of-range field is named, in ascending offset order (R155 to R157);
the tested fields and their ranges are those of sections 11.3.1 to 11.3.3. -/
def Obligations.LoadRefusedByStateSumOrRange : Prop :=
  ∀ (w : CommandWrite) (s : State), Takes w s →
    (s.ctl.job ≠ .idle → exec (.load w) s =
      .next (withResult 1 w.tag .state 0 (BitVec.ofNat 32 s.ctl.job.code) (arrived 1 w s))) ∧
    (s.ctl.job = .idle → wordSum s.ticket.staged ≠ 0 → exec (.load w) s =
      .next (withResult 1 w.tag .ticketCheck 1 (wordSum s.ticket.staged) (arrived 1 w s))) ∧
    (s.ctl.job = .idle → wordSum s.ticket.staged = 0 → ∀ n, OutOfRange s.ticket.staged n →
      (∀ m < n, ¬OutOfRange s.ticket.staged m) →
      exec (.load w) s = .next (withResult 1 w.tag .ticketRange 2 (BitVec.ofNat 32 (4 * n)) (arrived 1 w s)))

/-- The third to sixth checks of LOAD, each judged when those before it pass (R158); the sixth judges active streams alone,
which is the model's reading (DEDUCED, log 18). -/
def Obligations.LoadRefusedByThirdToSixth : Prop :=
  ∀ (w : CommandWrite) (s : State) (t : Ticket), t = ticketOf s.ticket.staged → Takes w s → s.ctl.job = .idle →
    wordSum s.ticket.staged = 0 → (∀ n, ¬OutOfRange s.ticket.staged n) →
    ((∀ k, (t.plies.get k).enabled = false) →
      exec (.load w) s = .next (withResult 1 w.tag .noPly 3 0 (arrived 1 w s))) ∧
    ((∃ k, (t.plies.get k).enabled = true) →
      (∀ k, TallyStreamInactive t k → (∀ j < k, ¬TallyStreamInactive t j) →
        exec (.load w) s = .next (withResult 1 w.tag .ticketRange 4 (BitVec.ofNat 32 (k.val + 1)) (arrived 1 w s))) ∧
      ((∀ k, ¬TallyStreamInactive t k) →
        (∀ i, RunAgainstStep t i → (∀ j < i, ¬RunAgainstStep t j) →
          exec (.load w) s = .next (withResult 1 w.tag .ticketRange 5 (BitVec.ofNat 32 i.val) (arrived 1 w s))) ∧
        ((∀ i, ¬RunAgainstStep t i) →
          ∀ i, BookNotAllowed t i → (∀ j < i, ¬BookNotAllowed t j) →
            exec (.load w) s =
              .next (withResult 1 w.tag .ticketRange 6 (BitVec.ofNat 32 i.val) (arrived 1 w s)))))

/-- The seventh check of LOAD (R146): the store answers for itself, then for the booked streams in order; a ticket that
passes the first six checks is answered by it (R155, R159). -/
def Obligations.BookCheckJudgesStreams : Prop :=
  (∀ (w : CommandWrite) (s : State), Takes w s → s.ctl.job = .idle → PassesSix s.ticket.staged →
    (∀ check result detail, bookCheck (ticketOf s.ticket.staged) s.store = some (check, result, detail) →
      exec (.load w) s = .next (withResult 1 w.tag result check detail (arrived 1 w s))) ∧
    (bookCheck (ticketOf s.ticket.staged) s.store = none → loadCheck s.ticket.staged s.store = none)) ∧
  ∀ (t : Ticket) (st : Store),
    (st.phase = .recovering → bookCheck t st = some (7, .storeUnavailable, BitVec.ofNat 32 (storeStateCode st))) ∧
    ((∃ c, st.phase = .failed c) → (∃ i, Booked t i) → bookCheck t st = some (7, .storeUnavailable, 3)) ∧
    ((∃ c, st.phase = .failed c) → (∀ i, ¬Booked t i) → bookCheck t st = none) ∧
    (st.phase = .inService →
      ((∀ i, Booked t i →
          (∀ j < i, Booked t j → (t.streams.get j).book ≠ (t.streams.get i).book) ∧
          (∀ r, st.row (t.streams.get i).book = some r → r.dir = (t.streams.get i).dir ∧
            (r.empty = false → beyond (t.streams.get i).dir (t.streams.get i).first r.high = true)) ∧
          (st.row (t.streams.get i).book = none → newBooks t st i ≤ 32 - st.table.length)) →
        bookCheck t st = none) ∧
      ∀ i, Booked t i → (∀ j < i, bookTest t st j = none) →
        ((∃ j < i, Booked t j ∧ (t.streams.get j).book = (t.streams.get i).book) →
          bookCheck t st = some (7, .bookShared, BitVec.ofNat 32 i.val)) ∧
        ((∀ j < i, Booked t j → (t.streams.get j).book ≠ (t.streams.get i).book) →
          (∀ r, st.row (t.streams.get i).book = some r →
            (r.dir ≠ (t.streams.get i).dir →
              bookCheck t st = some (7, .bookDirection, BitVec.ofNat 32 i.val)) ∧
            (r.dir = (t.streams.get i).dir → r.empty = false →
              beyond (t.streams.get i).dir (t.streams.get i).first r.high = false →
              bookCheck t st = some (7, .bookOverlap, BitVec.ofNat 32 i.val))) ∧
          (st.row (t.streams.get i).book = none → 32 - st.table.length < newBooks t st i →
            bookCheck t st = some (7, .bookTableFull, BitVec.ofNat 32 i.val))))

/-- A ticket that passes every check is accepted: the job is READY and every block takes its part (R160). The streams are
set up S0 to S3; under PROOF the generator starts from the job id's seed and goes from one to the next (R4, R20). -/
def Obligations.LoadAcceptedTakesJob : Prop :=
  ∀ (w : CommandWrite) (s : State), Takes w s → s.ctl.job = .idle →
    loadCheck s.ticket.staged s.store = none → s.ctl.inOperation = false →
    ∃ t, exec (.load w) s = .next t ∧
      t.ticket = { s.ticket with
        arg1 := shadow s.ticket.arg1 w.arg1, arg2 := shadow s.ticket.arg2 w.arg2,
        active := some (ticketOf s.ticket.staged),
        result := { code := 1, tag := w.tag, result := .done, check := 0, detail := 0,
                    echo1 := shadow s.ticket.arg1 w.arg1, echo2 := shadow s.ticket.arg2 w.arg2 } } ∧
      t.ctl = { s.ctl with job := .ready, command := false, fault := false,
                           snapshot := { s.ctl.snapshot with valid := false } } ∧
      (∃ g : Fin 5 → BitVec 24,
        g 0 = (if (ticketOf s.ticket.staged).policy = .proof then seedOf (ticketOf s.ticket.staged).jobId
          else s.streams.generator) ∧
        (∀ i : StreamId, loadStream (ticketOf s.ticket.staged).policy ((ticketOf s.ticket.staged).streams.get i)
          (g i.castSucc) = (streamAt t i, g i.succ)) ∧
        t.streams.generator = g 4) ∧
      t.pipe = { s.pipe with pitchCount := 0, opened := 0, reserveWait := 0 } ∧
      (∀ k, t.tally.get k = { s.tally.get k with line := .hunt, assembly := .empty }) ∧
      t.spoil = { zones := .const 0, remakes := [], good := 0, void := 0, remade := 0, blank := 0, gate := true } ∧
      t.timer = { s.timer with encoder := 0, deadlineMade := false } ∧
      t.lines = { s.lines with runs := List.replicate 18 0, holdreq := inputActive t inHoldreq,
                               pwrwarn := inputActive t inPwrwarn } ∧
      t.path = s.path ∧ t.store.array = s.store.array ∧ t.store.table = s.store.table ∧
      (t.lines.pwrwarn = s.lines.pwrwarn → t.store = s.store ∧ t.report = s.report) ∧
      t.report.queue = s.report.queue ∧
      t.bus = { upstream := [], downstream := [(0, commandAccess 1 w s)] }

/-- A stream as LOAD sets it up, by mode, policy and the first valid value of its run (R4); that value is the first member
of the lattice from first on that is not beyond last, lies in no used skip range and passes its check (R3). -/
def Obligations.LoadSetsStreamUp : Prop :=
  (∀ (d : StreamDesc) (v : Word), d.step ≠ 0 →
    (firstValid d = some v ↔ ∃ n : Nat, (v.toNat : Int) = d.first.toNat + n * d.step ∧
      beyond d.dir v d.last = false ∧ admissible d v = true ∧
      ∀ m < n, ∀ y : Word, (y.toNat : Int) = d.first.toNat + m * d.step → admissible d y = false)) ∧
  ∀ (p : Policy) (d : StreamDesc) (g : BitVec 24) (x : StreamState),
    x = (loadStream p d g).1 →
    x.u = 0 ∧ x.limit = none ∧ x.inFlight = false ∧ x.drawn = false ∧ x.firstDrawn = 0 ∧ x.lastDrawn = 0 ∧
    x.valuesDrawn = 0 ∧
    (d.active = false → x.status = .inactive ∧ x.v = 0) ∧
    (d.active = true → d.mode ≠ .fixed → p ≠ .proof →
      (∀ v, firstValid d = some v → x.status = .live ∧ x.v = v) ∧
      (firstValid d = none → x.status = .exhausted ∧ x.v = d.first)) ∧
    (d.active = true → d.mode = .fixed →
      x.v = d.first ∧ (admissible d d.first = true → x.status = .live) ∧
      (admissible d d.first = false → x.status = .exhausted)) ∧
    (d.active = true → d.mode ≠ .fixed → p = .proof → x.status = .live ∧ x.v = (proofValue d.check g).1) ∧
    ((loadStream p d g).2 = if d.active = true ∧ d.mode ≠ .fixed ∧ p = .proof then (proofValue d.check g).2 else g)

/-- START: its refusals by the first row that holds, and the job it starts: G BLANK entries, the encoder count 0, RUN, or
HOLD while a hold cause is present (R116, R43, R121); each booked stream's initial request, or its renewal where a limit is
present, joins the store's queue, S0's first (R15, R16; the order by log 16), and a full queue or a FAILED store refuses it
(R18, R133). Where the store then finds the wait of R137, STORE_FAULT halts the job. -/
def Obligations.StartAnswered : Prop :=
  ∀ (w : CommandWrite) (s : State), Takes w s →
    (s.ctl.job ≠ .ready → exec (.start w) s =
      .next (withResult 2 w.tag .state 0 (BitVec.ofNat 32 s.ctl.job.code) (arrived 2 w s))) ∧
    (s.ctl.job = .ready →
      (∀ n, FirstHaltLine s n → exec (.start w) s =
        .next (withResult 2 w.tag .linesActive 0 (BitVec.ofNat 32 n.val) (arrived 2 w s))) ∧
      (NoHaltLine s →
        (48 ≤ s.report.queue.length → exec (.start w) s =
          .next (withResult 2 w.tag .queueHigh 0 (BitVec.ofNat 32 s.report.queue.length) (arrived 2 w s))) ∧
        (s.report.queue.length < 48 → s.spoil.remakes = [] → ∀ t i, s.ticket.active = some t →
          (t.streams.get i).active = true → (streamAt s i).status = .exhausted →
          (∀ j < i, (t.streams.get j).active = true → (streamAt s j).status ≠ .exhausted) →
          exec (.start w) s = .next (withResult 2 w.tag .exhausted 0 (BitVec.ofNat 32 i.val) (arrived 2 w s))) ∧
        (s.report.queue.length < 48 → s.ctl.inOperation = false → ∀ t, s.ticket.active = some t →
          (s.spoil.remakes ≠ [] ∨ ∀ i, (t.streams.get i).active = true → (streamAt s i).status ≠ .exhausted) →
          ∃ u, exec (.start w) s = .next u ∧
            u.ticket = (withResult 2 w.tag .done 0 0 (arrived 2 w s)).ticket ∧
            u.pipe = { s.pipe with entries := List.replicate (gateDistOf s) .blank } ∧
            u.timer = { s.timer with encoder := 0, deadlineMade := false } ∧
            u.spoil = s.spoil ∧ u.lines = s.lines ∧ u.tally = s.tally ∧ u.path = s.path ∧
            u.report.queue = s.report.queue ∧ Requested t (startLimit t s) s u ∧
            ((∀ i, ¬Booked t i) → u.streams = s.streams ∧ u.store = s.store) ∧
            (u.store.fullWait = s.store.fullWait → u.report = s.report ∧
              u.ctl = { s.ctl with job :=
                if s.ctl.command || s.ctl.fault || s.lines.holdreq then .hold else .run }) ∧
            (s.store.fullWait = false → u.store.fullWait = true →
              u.ctl.job = .halted ∧ u.report.flags = s.report.flags ||| BitVec.twoPow 17 16))))

/-- STOP (R117): to DRAIN from RUN, HOLD and HALTED, a PENDING entry BLANK first. HOLD (R118): to HOLD from RUN with the
COMMAND hold cause. The held responses follow. -/
def Obligations.StopAndHoldAnswered : Prop :=
  ∀ (w : CommandWrite) (s : State), Takes w s →
    (s.ctl.job = .run → exec (.stop w) s = .next (settle (withResult 3 w.tag .done 0 0
      { arrived 3 w s with pipe := blanked s.pipe, ctl := { s.ctl with job := .drain } }))) ∧
    (s.ctl.job = .hold ∨ s.ctl.job = .halted → exec (.stop w) s = .next (settle (withResult 3 w.tag .done 0 0
      { arrived 3 w s with pipe := blanked s.pipe,
                           ctl := { s.ctl with job := .drain, command := false, fault := false } }))) ∧
    (s.ctl.job = .drain → exec (.stop w) s = .next (withResult 3 w.tag .done 0 0 (arrived 3 w s))) ∧
    (s.ctl.job = .idle ∨ s.ctl.job = .ready ∨ s.ctl.job = .closing → exec (.stop w) s =
      .next (withResult 3 w.tag .state 0 (BitVec.ofNat 32 s.ctl.job.code) (arrived 3 w s))) ∧
    (s.ctl.job = .run → exec (.hold w) s = .next (settle (withResult 4 w.tag .done 0 0
      { arrived 4 w s with pipe := blanked s.pipe, ctl := { s.ctl with job := .hold, command := true } }))) ∧
    (s.ctl.job = .hold → exec (.hold w) s = .next (withResult 4 w.tag .done 0 0 (arrived 4 w s))) ∧
    (s.ctl.job = .drain ∨ s.ctl.job = .halted ∨ s.ctl.job = .idle ∨ s.ctl.job = .ready ∨ s.ctl.job = .closing →
      exec (.hold w) s = .next (withResult 4 w.tag .state 0 (BitVec.ofNat 32 s.ctl.job.code) (arrived 4 w s)))

/-- RESUME (R119): its refusals by the first row that holds; else to RUN with the hold causes cleared, and on to HOLD at
once while HOLDREQ is active. -/
def Obligations.ResumeAnswered : Prop :=
  ∀ (w : CommandWrite) (s : State), Takes w s →
    (s.ctl.job ≠ .hold → s.ctl.job ≠ .halted → exec (.resume w) s =
      .next (withResult 5 w.tag .state 0 (BitVec.ofNat 32 s.ctl.job.code) (arrived 5 w s))) ∧
    (s.ctl.job = .hold → s.lines.holdreq = true → exec (.resume w) s =
      .next (withResult 5 w.tag .linesActive 0 15 (arrived 5 w s))) ∧
    (s.ctl.job = .halted → ∀ n, FirstHaltLine s n → exec (.resume w) s =
      .next (withResult 5 w.tag .linesActive 0 (BitVec.ofNat 32 n.val) (arrived 5 w s))) ∧
    ((s.ctl.job = .hold ∧ s.lines.holdreq = false) ∨ (s.ctl.job = .halted ∧ NoHaltLine s) →
      (48 ≤ s.report.queue.length → exec (.resume w) s =
        .next (withResult 5 w.tag .queueHigh 0 (BitVec.ofNat 32 s.report.queue.length) (arrived 5 w s))) ∧
      (s.report.queue.length < 48 → s.lines.holdreq = false → exec (.resume w) s =
        .next (withResult 5 w.tag .done 0 0
          { arrived 5 w s with ctl := { s.ctl with job := .run, command := false, fault := false } })) ∧
      (s.report.queue.length < 48 → s.lines.holdreq = true → exec (.resume w) s =
        .next (withResult 5 w.tag .done 0 0
          { arrived 5 w s with pipe := blanked s.pipe,
                               ctl := { s.ctl with job := .hold, command := false, fault := false } })))

/-- ABORT (R120, R102, R44): every SET entry voided, highest position first, and the job READY with no entries. The job
state as the detail of STATE is the model's reading of section 11.1 (DEDUCED, log 10). -/
def Obligations.AbortAnswered : Prop :=
  ∀ (w : CommandWrite) (s : State), Takes w s →
    (s.ctl.job = .run ∨ s.ctl.job = .idle ∨ s.ctl.job = .ready ∨ s.ctl.job = .closing → exec (.abort w) s =
      .next (withResult 6 w.tag .state 0 (BitVec.ofNat 32 s.ctl.job.code) (arrived 6 w s))) ∧
    (s.ctl.job = .hold ∨ s.ctl.job = .halted ∨ s.ctl.job = .drain → s.ctl.inOperation = false →
      exec (.abort w) s = .next (settle (withResult 6 w.tag .done 0 0
        { arrived 6 w s with
          pipe := { blanked s.pipe with entries := [] }
          ctl := { s.ctl with job := .ready, command := false, fault := false }
          spoil := { s.spoil with gate := true, zones := .const 0,
                                  void := satAdd s.spoil.void (s.pipe.entries.filterMap abortRecord).length }
          report := { s.report with
            queue := s.report.queue ++ (s.pipe.entries.reverse.filterMap abortRecord) } })))

/-- CLOSE (R186 to R189): its refusals; on acceptance the CLOSE_UNMADE records, the SUMMARY records and the close appends of
the booked streams in stream order. While the array's resource is busy or the store QUIESCED they join the queue; a free
array starts the first one whose book has a row, those before it answered at once (R145); a FAILED store fails them all, and
CLOSE ends with the lowest stream (R189, R191). A job with no booked stream ends at once, and so does one whose books have no
row (R191): the job IDLE, every block without it. -/
def Obligations.CloseAnswered : Prop :=
  ∀ (w : CommandWrite) (s : State), Takes w s →
    (s.ctl.job ≠ .ready → exec (.close w) s =
      .next (withResult 7 w.tag .state 0 (BitVec.ofNat 32 s.ctl.job.code) (arrived 7 w s))) ∧
    (s.ctl.job = .ready → 48 ≤ s.report.queue.length → exec (.close w) s =
      .next (withResult 7 w.tag .queueHigh 0 (BitVec.ofNat 32 s.report.queue.length) (arrived 7 w s))) ∧
    (s.ctl.job = .ready → s.report.queue.length < 48 → s.ctl.inOperation = false →
      ∀ t, s.ticket.active = some t →
        ((∃ i, Booked t i) → s.store.op ≠ none ∨ s.store.quiesced = true → s.store.queue.length ≤ 36 →
          (∀ c, s.store.phase ≠ .failed c) →
          exec (.close w) s = .next { closingState w t s with
            store := { s.store with queue := s.store.queue ++ closeRequests t s } }) ∧
        (∀ a q r rest body, FreeFor s.store a → s.store.queue = [] → s.store.retried = false →
          closeRequests t s = q ++ r :: rest → (∀ x ∈ q, appendBody s.store x = none) →
          appendBody s.store r = some body → q = [] ∨ s.store.lowest .full = none →
          exec (.close w) s = .next { closingState w t s with
            store := { appendStarted s.store a body with queue := r :: rest } }) ∧
        (∀ a i r rest, FreeFor s.store a → s.store.queue = [] → s.store.retried = false →
          closeRequests t s = r :: rest → rest ≠ [] → appendBody s.store r = none → s.store.lowest .full = some i →
          exec (.close w) s = .next { closingState w t s with
            store := { eraseStarted s.store i with queue := rest } }) ∧
        (∀ a, FreeFor s.store a → s.store.queue = [] → s.store.retried = false →
          (∀ x ∈ closeRequests t s, appendBody s.store x = none) → s.store.lowest .full = none →
          ∃ u, exec (.close w) s = .next u ∧ JobEnded .done 0 (closingState w t s) u ∧
            u.store.table = s.store.table ∧ u.store.array = s.store.array ∧
            u.report.queue = s.report.queue ++ closeRecords t s ∧
            (u.lines.pwrwarn = s.lines.pwrwarn → u.store = s.store)) ∧
        ((∀ i, ¬Booked t i) → s.store.queue.any Request.isCloseAppend = false →
          ∃ u, exec (.close w) s = .next u ∧ JobEnded .done 0 (closingState w t s) u ∧
            u.store.table = s.store.table ∧ u.store.array = s.store.array ∧
            u.report.queue = s.report.queue ++ closeRecords t s ∧
            (u.lines.pwrwarn = s.lines.pwrwarn → u.store = s.store ∧ u.report = (closingState w t s).report)) ∧
        ((∃ c, s.store.phase = .failed c) → s.store.queue.any Request.isCloseAppend = false →
          ∀ i, Booked t i → (∀ j < i, ¬Booked t j) →
          ∃ u, exec (.close w) s = .next u ∧
            JobEnded .storeUnavailable (BitVec.ofNat 32 i.val) (closingState w t s) u ∧
            u.store.phase = s.store.phase ∧ u.store.queue = s.store.queue ∧ u.store.array = s.store.array ∧
            u.report.queue = s.report.queue ++ closeRecords t s ∧
            u.store.table = (fours.filter fun j => decide (Booked t j)).foldl
              (fun rows j => tableAfterFailedClose (t.streams.get j).book rows) s.store.table))

/-- SPOIL (R90): answered by the first row that holds; found, the entry is marked OPERATOR and OPERATOR_SPOIL raised. -/
def Obligations.SpoilAnswered : Prop :=
  ∀ (w : CommandWrite) (s : State) (n : Word), n = shadow s.ticket.arg1 w.arg1 → Takes w s →
    (s.ctl.job = .idle → exec (.spoil w) s = .next (withResult 8 w.tag .state 0 0 (arrived 8 w s))) ∧
    (s.ctl.job ≠ .idle → n = 0 ∨ s.pipe.opened.toNat < n.toNat → exec (.spoil w) s =
      .next (withResult 8 w.tag .notFound 0 0 (arrived 8 w s))) ∧
    (s.ctl.job ≠ .idle → n ≠ 0 → n.toNat ≤ s.pipe.opened.toNat →
      (∀ (p : Nat) (e : SetEntry), s.pipe.entries[p]? = some (.set e) → e.serial = n →
        (∀ q < p, ∀ f : SetEntry, s.pipe.entries[q]? = some (.set f) → f.serial ≠ n) →
        exec (.spoil w) s = .next (settle (withResult 8 w.tag .done 0 (BitVec.ofNat 32 p)
          (raise .operatorSpoil 0 n
            { arrived 8 w s with pipe := { s.pipe with entries := s.pipe.entries.modify p (withCause .operator) } })))) ∧
      ((∀ (p : Nat) (e : SetEntry), s.pipe.entries[p]? = some (.set e) → e.serial ≠ n) → exec (.spoil w) s =
        .next (withResult 8 w.tag .tooLate 0 0 (arrived 8 w s))))

/-- RETIRE (R147): answered by the first row that holds; accepted, it is pending and its request joins the queue. A request
that joins stands at the queue's tail, and the store then makes its choice (R133, R134): it starts nothing while the resource
is busy, the store QUIESCED or FAILED or its scan to come; free, with no other request, it starts the append. -/
def Obligations.RetireAnswered : Prop :=
  (∀ (r : Request) (s u : State), u = { s with store := { s.store with queue := s.store.queue ++ [r] } } →
    (s.store.op ≠ none ∨ s.store.quiesced = true ∨ (∃ c, s.store.phase = .failed c) ∨ s.store.scanMade = false →
      joinQueue r s = u) ∧
    (s.ctl.job ≠ .closing → joinQueue r s = chooseNext u) ∧
    (∀ a body, FreeFor s.store a → s.store.queue = [] → appendBody s.store r = some body →
      joinQueue r s = { u with store := appendStarted u.store a body })) ∧
  ∀ (w : CommandWrite) (s : State) (b : Word), b = shadow s.ticket.arg1 w.arg1 → Takes w s →
    (s.ctl.job ≠ .idle → exec (.retire w) s =
      .next (withResult 9 w.tag .state 0 (BitVec.ofNat 32 s.ctl.job.code) (arrived 9 w s))) ∧
    (s.ctl.job = .idle → s.lines.accepted.getLsbD 16 = false → exec (.retire w) s =
      .next (withResult 9 w.tag .serviceOff 0 0 (arrived 9 w s))) ∧
    (s.ctl.job = .idle → s.lines.accepted.getLsbD 16 = true →
      (s.store.phase ≠ .inService → exec (.retire w) s =
        .next (withResult 9 w.tag .storeUnavailable 0 (BitVec.ofNat 32 (storeStateCode s.store)) (arrived 9 w s))) ∧
      (s.store.phase = .inService →
        (b = 0 ∨ s.store.row b = none → exec (.retire w) s =
          .next (withResult 9 w.tag .notFound 0 0 (arrived 9 w s))) ∧
        (∀ r, b ≠ 0 → s.store.row b = some r →
          (r.opened = true → exec (.retire w) s = .next (withResult 9 w.tag .state 0 0 (arrived 9 w s))) ∧
          (r.opened = false → 40 ≤ s.store.queue.length → exec (.retire w) s =
            .next (withResult 9 w.tag .storeUnavailable 0 (BitVec.ofNat 32 (storeStateCode s.store)) (arrived 9 w s))) ∧
          (r.opened = false → s.store.queue.length < 40 → exec (.retire w) s =
            .next (joinQueue (.retire b) { withResult 9 w.tag .pending 0 0 (arrived 9 w s) with
              ticket := { (withResult 9 w.tag .pending 0 0 (arrived 9 w s)).ticket with
                waiting := some (waitingRetire w s) } })))))

/-- ACK clears the flags its mask names and CLEAR_HISTORY empties the history, in every job state (R166, R180, R181). -/
def Obligations.AckAndClearHistoryAnswered : Prop :=
  ∀ (w : CommandWrite) (s : State), Takes w s →
    exec (.ack w) s = .next (withResult 10 w.tag .done 0 0 { arrived 10 w s with
      report := { s.report with flags := s.report.flags &&& ~~~((shadow s.ticket.arg1 w.arg1).setWidth 17) } }) ∧
    exec (.clearHistory w) s = .next (withResult 11 w.tag .done 0 0 { arrived 11 w s with
      report := { s.report with slots := List.replicate 16 none, head := 0, total := 0 } })

/-! ## Reads and the head feeders -/

/-- A press-controller read: a word of the report area returns the report block's value, and a burst with the POP word
removes the head record, words above it seeing the queue after the pop; every other word is memory's (R48, R174, R176). -/
def Obligations.ControllerReadOverlaid : Prop :=
  ∀ (r : Response) (s : State), (Instr.popWordRead r).wf = true →
    (s.resetting = true →
      exec (.popWordRead r) s = .next { s with bus := { upstream := [(0, r)], downstream := [] } }) ∧
    (s.resetting = false → ∃ ws : List Word, ∃ len : ws.length = r.words.length,
      exec (.popWordRead r) s =
        .next { popped r s with bus := { upstream := [(0, { r with words := ws })], downstream := [] } } ∧
      ∀ j (h : j < r.words.length),
        (∀ off, 0x8000 ≤ off → off < 0x10000 → AtOffset s (wordAddr r.addr j) off →
          (off ≤ 0x81E0 → ws[j] = reportWord s off) ∧ (0x81E0 < off → ws[j] = reportWord (popped r s) off)) ∧
        ((∀ off, 0x8000 ≤ off → off < 0x10000 → ¬AtOffset s (wordAddr r.addr j) off) → ws[j] = r.words[j]))

/-- The report area, word by word: the status, the command result, the fault flags, the lines and outputs, the counts, the
streams, the plies, the head record or zeros, the queue level at the POP word, the halt snapshot, the fault history and the
store view, each field at the bits sections 11.4.2 to 11.4.7 give it and every other bit 0; and 0 at every word outside the
map of section 11.4.1 (R173, R176, R177, R197). -/
def Obligations.ReportAreaShowsViews : Prop :=
  ∀ s : State, Fits s →
    StatusShown s ∧ LinesShown s ∧ CountsShown s ∧ QueueShown s ∧ HistoryShown s ∧ StoreShown s ∧
    ∀ off, (∀ v ∈ viewMap, ¬(v.1 ≤ off ∧ off < v.1 + 4 * v.2)) → reportWord s off = 0

/-- A head feeder's access passes downstream; outside a reset a read touching its own slot and an access straying from it
in the window are counted, wrapping, and nothing else changes (R48, R55). -/
def Obligations.FeederAccessCounted : Prop :=
  ∀ (k : Ply) (a : Access) (s : State), ∃ t,
    exec (.headFeederAccess k a) s = .next t ∧
    t = { s with path := t.path, bus := { upstream := [], downstream := [(feederId k, a)] } } ∧
    (s.resetting = true → t.path = s.path) ∧
    (s.resetting = false → t.path.wbase = s.path.wbase ∧ (∀ j, j ≠ k → feeder t j = feeder s j) ∧
      feeder t k = { feeder s k with slotReads := (feeder t k).slotReads, strays := (feeder t k).strays } ∧
      (∀ n, a.body = .read n → (∃ i < n, InSlotOf s k (wordAddr a.addr i)) →
        (feeder t k).slotReads = (feeder s k).slotReads + 1) ∧
      ((∀ n, a.body = .read n → ∀ i < n, ¬InSlotOf s k (wordAddr a.addr i)) →
        (feeder t k).slotReads = (feeder s k).slotReads) ∧
      ((∃ b ∈ Access.addrs a, StraysOf s k b) → (feeder t k).strays = (feeder s k).strays + 1) ∧
      ((∀ b ∈ Access.addrs a, ¬StraysOf s k b) → (feeder t k).strays = (feeder s k).strays))

/-- A read response of a feeder: unaltered during a reset; behind a held response of its own, kept; else, whether or not
another feeder's response is held, held while its token meets a PENDING entry, or taken and what it releases with it (R49,
R50, R51, R67, R68). A bind-wait limit of 0 ends the wait at once; BIND_TIMEOUT is raised before the released responses are
taken (DESIGN CHOICE, logs 7 and 16), and none is held afterwards (R69). -/
def Obligations.ReadResponseHeldOrTaken : Prop :=
  ∀ (k : Ply) (r : Response) (s : State),
    (s.resetting = true → exec (.readResponse k r) s =
      .next { s with bus := { upstream := [(feederId k, r)], downstream := [] } }) ∧
    (s.resetting = false → (∀ j, headReady s j = false) → (feeder s k).queue ≠ [] →
      exec (.readResponse k r) s = .next { quiet s with
        path := { s.path with feeders := s.path.feeders.set k { feeder s k with
          queue := (feeder s k).queue ++ [r] } } }) ∧
    (s.resetting = false → (∀ j, (feeder s j).queue = []) →
      (mustHold s k r = false → exec (.readResponse k r) s = .next (takeResponse k r (unheld k (quiet s)))) ∧
      (mustHold s k r = true → bindLimitOf s ≠ 0 → exec (.readResponse k r) s = .next (holding k r (quiet s))) ∧
      (mustHold s k r = true → bindLimitOf s = 0 → headPosOf s k = some 0 → exec (.readResponse k r) s =
        .next (takeResponse k r (unheld k (raise .bindTimeout (plyNumber k) 0
          { holding k r (quiet s) with pipe := blanked s.pipe }))))) ∧
    (s.resetting = false → (feeder s k).queue = [] → (∀ j, j ≠ k → headReady s j = false) →
      (mustHold s k r = false →
        exec (.readResponse k r) s = .next (settle (takeResponse k r (unheld k (quiet s)))) ∧
        ((∀ j, headReady (takeResponse k r (unheld k (quiet s))) j = false) →
          exec (.readResponse k r) s = .next (takeResponse k r (unheld k (quiet s))))) ∧
      (mustHold s k r = true → bindLimitOf s ≠ 0 → exec (.readResponse k r) s = .next (holding k r (quiet s))) ∧
      (mustHold s k r = true → bindLimitOf s = 0 → Settled s → PipelineShape s →
        ∃ u, exec (.readResponse k r) s = .next u ∧ pendingAtZero u = false ∧ (∀ j, (feeder u j).queue = []) ∧
          u.report.flags.getLsbD 7 = true))

/-- A response is held when its job runs, its ply's head position holds a PENDING entry, and it has a field token of the
ply's slot outside its continued words (R67). -/
def Obligations.TokenMeetsPendingEntry : Prop :=
  ∀ (k : Ply) (r : Response) (s : State),
    (mustHold s k r = true ↔
      s.ctl.job.running = true ∧
      (∃ t st cs ps, s.ticket.active = some t ∧ (t.plies.get k).enabled = true ∧
        s.pipe.entries[t.headPos k]? = some (.pending st cs ps)) ∧
      ∃ i w, r.words[i]? = some w ∧ w.extractLsb' 24 8 = 0xA7 ∧ InSlotOf s k (wordAddr r.addr i) ∧
        ∀ c, (feeder s k).cont = some c → c.next = r.addr → c.glyphs.length ≤ i)

/-- The expiry of a bind wait on a PENDING entry makes it BLANK, raises BIND_TIMEOUT with the ply, and releases what waits;
with no such wait nothing happens (R69). That the fault is raised before the released responses are taken is the model's
choice (DESIGN CHOICE, logs 7 and 16). -/
def Obligations.BindWaitExpires : Prop :=
  ∀ (k : Ply) (s : State),
    (s.resetting = false → (feeder s k).held = true → (feeder s k).timer ≠ none → pendingAtZero s = true →
      exec (.bindWaitExpiry k) s =
        .next (settle (raise .bindTimeout (plyNumber k) 0 { quiet s with pipe := blanked s.pipe }))) ∧
    (s.resetting = true ∨ (feeder s k).held = false ∨ (feeder s k).timer = none ∨ pendingAtZero s = false →
      exec (.bindWaitExpiry k) s = .next (quiet s))

/-- The release serves every response that can be served: afterwards each feeder has none left, or its first is held on a
PENDING entry (R49, R68). It serves first responses one after another, in an order the rules leave free among the feeders
(log 6): each is taken, or held anew, a bind-wait limit of 0 ending its wait at once (R67, R69); with none to serve it does
nothing. So each feeder's released responses leave in issue order and go upstream in that order, none lost (R49, R68). Within
a pitch operation the held responses are taken in the same way (R34; log 7). -/
def Obligations.ReleaseServesAll : Prop :=
  (∀ (s : State) (k : Ply) (r : Response), (feeder (settle s) k).queue.head? = some r →
    (feeder (settle s) k).held = true ∧ mustHold (settle s) k r = true) ∧
  (∀ (s : State) (k : Ply), ∃ released sent : List Response,
    (feeder s k).queue = released ++ (feeder (settle s) k).queue ∧
    sentTo k (settle s) = sentTo k s ++ sent ∧ List.Forall₂ SentFor released sent) ∧
  (∀ s : State, (∀ k, headReady s k = false) → settle s = s) ∧
  (∀ s : State, (∃ k, headReady s k = true) → ∃ (k : Ply) (r : Response) (n : Nat) (u : State),
    headReady s k = true ∧ (feeder s k).queue.head? = some r ∧ u = { s with freeCount := n } ∧
    ((∀ j, j ≠ k → headReady s j = false) → u = s) ∧
    (mustHold s k r = false → settle s = settle (takeResponse k r (headGone k u))) ∧
    (mustHold s k r = true → bindLimitOf s ≠ 0 → settle s = settle (headHeld k u)) ∧
    (mustHold s k r = true → bindLimitOf s = 0 →
      settle s = settle (raise .bindTimeout (plyNumber k) 0 { headHeld k u with pipe := blanked s.pipe }))) ∧
  (∀ s : State, ∃ (ks : List Ply) (n : Nat),
    ks.Perm (plies.filter fun k => (feeder s k).held && headReady s k) ∧
    releaseHeads s = ks.foldl (fun x k => takeHead k x) { s with freeCount := n }) ∧
  (∀ (s : State) (k : Ply) (r : Response), (feeder s k).queue.head? = some r →
    takeHead k s = takeResponse k r (headGone k s))

/-- A token that shows no value: a well-formed one outside a running job or of a disabled ply, or against a BLANK entry, is
rendered as spaces over its span (R57, R59, R60); a malformed one there, and one a BLANK entry's job does not render, is
returned unchanged and marks nothing (R57 rows 2 and 4, R61). The words around it, and a response without a token, are as
memory holds them. -/
def Obligations.SpacesFieldRendered : Prop :=
  ∀ (k : Ply) (r : Response) (s : State) (b off : Nat) (w : Word), (feeder s k).cont = none → r.words[b]? = some w →
    (OneToken s k r b off (tokenOf w).span → (tokenOf w).wellFormed k off = true →
      (s.ctl.job.running = false ∨ headPosOf s k = none ∨
        ∃ t p, s.ticket.active = some t ∧ headPosOf s k = some p ∧ entryAt s p = .blank ∧
          ¬TokenRefused t k (tokenOf w) off) →
      takeResponse k r s = returned k r b (spaceString (tokenOf w)) 0 0 s) ∧
    (OneToken s k r b off 1 →
      ((s.ctl.job.running = false ∨ headPosOf s k = none) ∧ (tokenOf w).wellFormed k off = false) ∨
      (s.ctl.job.running = true ∧ ∃ t p, s.ticket.active = some t ∧ headPosOf s k = some p ∧ entryAt s p = .blank ∧
        TokenRefused t k (tokenOf w) off) →
      takeResponse k r s = passed k r s) ∧
    ((∀ j, ¬MarkedAt s k r j) → takeResponse k r s = passed k r s)

/-- A token against a SET entry: one the job does not render is returned unchanged with TOKEN_BAD marked and raised (R57 row
4, R61); else the stream's value in at most W digits, or overflow marks with TOKEN_BAD, and the completion at its last word
(R57, R59 to R62). A read at the next address of a field left open continues it and completes it at its last word (R64); a
read elsewhere abandons it: FIELD_BROKEN, where the field is a set's and the set is still in the pipeline, and the words as
if there were no record (R65). A write's response passes. A response with more than one token, or a token behind a
continued field, is rendered as its parts are: cut between any two words, its second part is taken where the first has
stopped, with the field the first has left open and the marks it has made (R56, R60, R64). -/
def Obligations.ValueFieldRendered : Prop :=
  (∀ (k : Ply) (r : Response) (s : State) (b off p : Nat) (w : Word) (t : Ticket) (e : SetEntry),
    (feeder s k).cont = none → r.words[b]? = some w → s.ctl.job.running = true → s.ticket.active = some t →
    headPosOf s k = some p → entryAt s p = .set e →
    (OneToken s k r b off 1 → TokenRefused t k (tokenOf w) off →
      takeResponse k r s = passed k r (tokenBad k e s)) ∧
    (OneToken s k r b off (tokenOf w).span → ¬TokenRefused t k (tokenOf w) off → e.serial ≠ 0 →
      ∀ v, e.values.get (tokenOf w).stream = some v →
      ((digits v).length ≤ (tokenOf w).width →
        (r.words.length < b + (tokenOf w).span → takeResponse k r s =
          returned k r b (valueString (tokenOf w) (t.streams.get (tokenOf w).stream).check v) e.serial e.attempt s) ∧
        (b + (tokenOf w).span ≤ r.words.length → takeResponse k r s =
          returned k r b (valueString (tokenOf w) (t.streams.get (tokenOf w).stream).check v) e.serial e.attempt
            (countField k e.serial e.attempt s))) ∧
      ((tokenOf w).width < (digits v).length →
        (r.words.length < b + (tokenOf w).span → takeResponse k r s =
          returned k r b (overflowString (tokenOf w)) e.serial e.attempt (tokenBad k e s)) ∧
        (b + (tokenOf w).span ≤ r.words.length → takeResponse k r s =
          returned k r b (overflowString (tokenOf w)) e.serial e.attempt
            (countField k e.serial e.attempt (tokenBad k e s)))))) ∧
  (∀ (k : Ply) (r : Response) (s : State) (c : Continuation), (feeder s k).cont = some c → r.words ≠ [] →
    c.glyphs ≠ [] →
    (c.next = r.addr → (∀ j, c.glyphs.length ≤ j → ¬MarkedAt s k r j) →
      (c.serial = 0 ∨ r.words.length < c.glyphs.length →
        takeResponse k r s = returned k r 0 c.glyphs c.serial c.attempt s) ∧
      (c.serial ≠ 0 → c.glyphs.length ≤ r.words.length →
        takeResponse k r s = returned k r 0 c.glyphs c.serial c.attempt (countField k c.serial c.attempt s))) ∧
    (c.next ≠ r.addr →
      (takeResponse k r s).bus = (takeResponse k r (withoutRecord k s)).bus ∧
      (takeResponse k r s).path = (takeResponse k r (withoutRecord k s)).path ∧
      ((∀ j, ¬MarkedAt s k r j) →
        (c.serial ≠ 0 → (∃ e, Entry.set e ∈ s.pipe.entries ∧ e.serial = c.serial ∧ e.attempt = c.attempt) →
          takeResponse k r s = passed k r (raise .fieldBroken (plyNumber k) c.serial
            (markSerial c.serial c.attempt .fieldBroken (some k) (withoutRecord k s)))) ∧
        (c.serial = 0 ∨ (∀ e, Entry.set e ∈ s.pipe.entries → ¬(e.serial = c.serial ∧ e.attempt = c.attempt)) →
          takeResponse k r s = passed k r (withoutRecord k s))))) ∧
  (∀ (k : Ply) (r : Response) (s : State), r.words = [] → takeResponse k r s = passed k r s) ∧
  (∀ (k : Ply) (r : Response) (s : State) (ws vs : List Word), r.words = ws ++ vs → ws ≠ [] → vs ≠ [] →
    ∃ (xs ys : List Word) (u1 u2 : State), xs.length = ws.length ∧ ys.length = vs.length ∧
      u1 = takeResponse k { r with words := ws } s ∧
      u1.bus = (passed k { r with words := xs } s).bus ∧
      u2 = takeResponse k { r with addr := wordAddr r.addr ws.length, words := vs } u1 ∧
      u2.bus = (passed k { r with addr := wordAddr r.addr ws.length, words := ys } u1).bus ∧
      takeResponse k r s = { u2 with bus := (passed k { r with words := xs ++ ys } s).bus })

/-- The glyphs of a value: its decimal digits right-aligned in W places behind zeros or spaces, then the check digit where
it is asked for (R59). -/
def Obligations.ValueGlyphsSpellNumber : Prop :=
  ∀ (t : Token) (m : CheckMethod) (v : Word) (i : Nat), (digits v).length ≤ t.width → i < t.width →
    (valueString t m v).length = t.span ∧ (digits v).length = (Nat.toDigits 10 v.toNat).length ∧
    (valueString t m v)[i]? = some (BitVec.ofNat 16 (t.base +
      (if t.width - i ≤ (digits v).length then v.toNat / 10 ^ (t.width - 1 - i) % 10
       else if t.spaces then 10 else 0))) ∧
    (t.check = true → ∀ d, checkResult m v = some d →
      (valueString t m v)[t.width]? = some (BitVec.ofNat 16 (t.base + d)))

/-! ## Pitch timer -/

/-- The encoder count rises by 1 at each ENC edge of the selected kind, while ENC is enabled and no reset is held, and
stays at its largest value (R110). Pitch events by the source of the ticket: COUNT at L, CUE by an edge that is not
early, a synthetic one with CUE_LOST at the smallest whole number at or above 5L/4; in IDLE every CUE edge (R111 to
R114). Below its limit, under the other source, with no ticket or during a reset no event is made. An event due stays due
above its limit (DEDUCED, log 5), and an edge no sample raised stands for its acceptance (DESIGN CHOICE, log 4). In the running
states CUE_LOST is among the raises of the operation's first stage (DESIGN CHOICE, log 16). -/
def Obligations.TimerEventsBySource : Prop :=
  ∀ (rising : Bool) (s : State),
    (s.resetting = false → (setting s inEnc).enabled = true → rising = !(setting s inEnc).inverted →
      exec (.encEdge rising) s =
        .next { quiet s with timer := { s.timer with encoder := satAdd s.timer.encoder 1 } }) ∧
    (s.resetting = true ∨ (setting s inEnc).enabled = false ∨ rising = (setting s inEnc).inverted →
      exec (.encEdge rising) s = .next (quiet s)) ∧
    (∀ t, s.resetting = false → s.ticket.active = some t → t.source = .count →
      t.formLength ≤ s.timer.encoder.toNat → ∃ u, exec .pitchEvent s = .next u ∧ pitchMade [] (quiet s) u) ∧
    (∀ t, s.resetting = false → s.ticket.active = some t → t.source = .cue →
      5 * t.formLength ≤ 4 * s.timer.encoder.toNat →
      ∃ u, exec .syntheticPitchEvent s = .next u ∧ pitchMade [.cueLost] (quiet s) u) ∧
    (∀ t, s.ticket.active = some t →
      (t.source = .cue ∨ s.timer.encoder.toNat < t.formLength → exec .pitchEvent s = .next (quiet s)) ∧
      (t.source = .count ∨ 4 * s.timer.encoder.toNat < 5 * t.formLength →
        exec .syntheticPitchEvent s = .next (quiet s))) ∧
    (s.resetting = true ∨ s.ticket.active = none →
      exec .pitchEvent s = .next (quiet s) ∧ exec .syntheticPitchEvent s = .next (quiet s)) ∧
    (EdgeTaken 1 s → s.ticket.active = none → ∃ u, exec .cueEdge s = .next u ∧ pitchMade [] (edgeState 1 s) u) ∧
    (∀ t, EdgeTaken 1 s → s.ticket.active = some t →
      (t.source = .count → exec .cueEdge s = .next (edgeState 1 s)) ∧
      (t.source = .cue →
        ((setting s inEnc).enabled = true → 2 * s.timer.encoder.toNat < t.formLength →
          exec .cueEdge s = .next { edgeState 1 s with
            timer := { s.timer with earlyCues := satAdd s.timer.earlyCues 1 } }) ∧
        ((setting s inEnc).enabled = false ∨ t.formLength ≤ 2 * s.timer.encoder.toNat →
          ∃ u, exec .cueEdge s = .next u ∧ pitchMade [] (edgeState 1 s) u)))

/-- The deadline event is made once in an interval, when the count has reached D: made already, below D, with no ticket or
during a reset nothing happens. The running states check the entries (R111, R112, R114, R41). An event due stays due above D
(DEDUCED, log 5), and every verdict is given before the first fault is raised (DESIGN CHOICE, log 16). -/
def Obligations.DeadlineEventChecks : Prop :=
  ∀ s : State,
    (s.resetting = true ∨ s.ticket.active = none → exec .deadlineEvent s = .next (quiet s)) ∧
    ∀ t, s.resetting = false → s.ticket.active = some t →
      (s.timer.deadlineMade = true ∨ s.timer.encoder.toNat < t.deadline → exec .deadlineEvent s = .next (quiet s)) ∧
      (s.timer.deadlineMade = false → t.deadline ≤ s.timer.encoder.toNat →
        (s.ctl.job.running = true → exec .deadlineEvent s =
          .next (settle (raiseAll (imageChecks t s.pipe.entries).2
            { quiet s with
              timer := { s.timer with deadlineMade := true }
              pipe := { s.pipe with entries := (imageChecks t s.pipe.entries).1 } }))) ∧
        (s.ctl.job.running = false → exec .deadlineEvent s =
          .next { quiet s with timer := { s.timer with deadlineMade := true } }))

/-- The image checks: a SET entry at an enabled ply's head position with its image state NONE becomes IMAGED with F_k fields
completed or more, else MISSED; a ply missed adds the cause IMAGE_MISSED, itself to the ply mask and one fault, and every
other cause, ply and image state stays (R32, R41). The tally check of the set leaving the collator: a tally of NONE of an
enabled ply with its tally enabled becomes MISSING, with its cause, its ply and its fault in the same way (R33). -/
def Obligations.ImageChecksJudgeHeads : Prop :=
  (∀ (t : Ticket) (es : List Entry), (imageChecks t es).1.length = es.length ∧
    (∀ p : Nat, (∀ e, es[p]? ≠ some (Entry.set e)) → (imageChecks t es).1[p]? = es[p]?) ∧
    (∀ (p : Nat) (e : SetEntry), es[p]? = some (.set e) → ∃ e' : SetEntry, (imageChecks t es).1[p]? = some (.set e') ∧
      e' = { e with image := e'.image, causes := e'.causes, plies := e'.plies } ∧
      (∀ k : Ply, e'.image.get k =
        if MissesImage t p e k then .missed
        else if (t.plies.get k).enabled = true ∧ 0 < (t.plies.get k).fields ∧ t.headPos k = p ∧ e.image.get k = .none
          then .imaged
        else e.image.get k) ∧
      (∀ n, e'.causes.getLsbD n = (e.causes.getLsbD n || decide (n = 1 ∧ ∃ k, MissesImage t p e k))) ∧
      (∀ k : Ply, e'.plies.getLsbD k.val = (e.plies.getLsbD k.val || decide (MissesImage t p e k)))) ∧
    (imageChecks t es).2.Nodup ∧
    (∀ x, x ∈ (imageChecks t es).2 ↔ ∃ (k : Ply) (e : SetEntry),
      es[t.headPos k]? = some (.set e) ∧ MissesImage t (t.headPos k) e k ∧
      x = (FaultKind.imageMissed, plyNumber k, e.serial))) ∧
  (∀ (t : Ticket) (es : List Entry),
    (∀ p : Nat, p ≠ t.collator → (tallyCheck t es).1[p]? = es[p]?) ∧
    ((∀ e, es[t.collator]? ≠ some (Entry.set e)) → tallyCheck t es = (es, [])) ∧
    (∀ e, es[t.collator]? = some (.set e) → ∃ e' : SetEntry, (tallyCheck t es).1[t.collator]? = some (.set e') ∧
      e' = { e with tally := e'.tally, causes := e'.causes, plies := e'.plies } ∧
      (∀ k : Ply, e'.tally.get k = if MissesTally t e k then .missing else e.tally.get k) ∧
      (∀ n, e'.causes.getLsbD n = (e.causes.getLsbD n || decide (n = 6 ∧ ∃ k, MissesTally t e k))) ∧
      (∀ k : Ply, e'.plies.getLsbD k.val = (e.plies.getLsbD k.val || decide (MissesTally t e k))) ∧
      (tallyCheck t es).2 = (plies.filter fun k => decide (MissesTally t e k)).map
        fun k => (FaultKind.tallyMissing, plyNumber k, e.serial)))

/-! ## The pitch operation -/

/-- A pitch operation adds 1 to the job pitch count, makes the image checks at the heads and the tally check at the
collator (R32, R33), moves every set one position on with its identity and its causes kept, decides exactly the oldest entry
as it stands after those checks, with the record, GATE, counts and remake list of that decision (R35, R92 to R99), and opens
position 0 (R36): BLANK outside RUN; in RUN the oldest set of the remake list the decision has left, so that a set just
decided REMAKE is reopened at once where the list was empty (R35); else by the answer of the streams, which are drawn and
make their requests (R7, R16). A PENDING entry's wait ends first: it goes on as BLANK and is counted, and each response held
on it leaves for its feeder (R34, R68), within the operation (DEDUCED, log 7). With every entry BLANK in DRAIN the job has drained to READY (R38), unless a fault of
the operation halts it. A splice counter above 0 marks the entry at P_k and falls by 1 (R88). `first` are faults raised with
the operation, CUE_LOST's among them (R113). -/
def Obligations.PitchOperationMovesSets : Prop :=
  (∀ (t : Ticket) (first : List (FaultKind × BitVec 3 × Word)) (s u : State), PipelineShape s →
    s.ticket.active = some t → s.ctl.job.running = true → u = pitchOperation t first s →
    u.pipe.pitchCount = s.pipe.pitchCount + 1 ∧ u.ticket = s.ticket ∧
    (∀ x ∈ first, u.report.flags.getLsbD x.1.num = true) ∧
    (∀ p e, p + 1 < s.pipe.entries.length → s.pipe.entries[p]? = some (.set e) →
      ∃ e' : SetEntry, u.pipe.entries[p + 1]? = some (.set e') ∧ e'.serial = e.serial ∧
        e'.attempt = e.attempt ∧ e'.values = e.values ∧ e'.stamp = e.stamp ∧
        (pendingAtZero s = false → e'.fields = e.fields) ∧
        e.causes &&& e'.causes = e.causes ∧ e.plies &&& e'.plies = e.plies ∧
        ∀ k : Ply,
          (e'.image.get k =
            if MissesImage t p e k then .missed
            else if (t.plies.get k).enabled = true ∧ 0 < (t.plies.get k).fields ∧ t.headPos k = p ∧ e.image.get k = .none
              then .imaged
            else e.image.get k) ∧
          (e'.tally.get k = if p = t.collator ∧ MissesTally t e k then .missing else e.tally.get k) ∧
          (MissesImage t p e k → e'.causes.getLsbD 1 = true ∧ e'.plies.getLsbD k.val = true ∧
            u.report.flags.getLsbD 4 = true) ∧
          (p = t.collator → MissesTally t e k → e'.causes.getLsbD 6 = true ∧ e'.plies.getLsbD k.val = true ∧
            u.report.flags.getLsbD 10 = true)) ∧
    (u.ctl.job.running = true → u.pipe.entries.length = s.pipe.entries.length) ∧
    (pendingAtZero s = true → 1 < s.pipe.entries.length → u.pipe.entries[1]? = some .blank) ∧
    (pendingAtZero s = false → u.path = s.path ∧ u.bus = s.bus) ∧
    (pendingAtZero s = true → ∀ k : Ply,
      ((feeder s k).held = false → feeder u k = feeder s k ∧ sentTo k u = sentTo k s) ∧
      (∀ r rest, (feeder s k).held = true → (feeder s k).queue = r :: rest →
        (feeder u k).queue = rest ∧ (feeder u k).held = false ∧ (feeder u k).timer = none ∧
        ∃ x, SentFor r x ∧ sentTo k u = sentTo k s ++ [x])) ∧
    (u.ctl.job = .run → u.pipe.reserveWait =
      if pendingAtZero s = true then satAdd s.pipe.reserveWait 1 else s.pipe.reserveWait) ∧
    (∀ k : Ply,
      (u.ctl.job ≠ .ready → u.spoil.zones.get k =
        if headPosOf s k = none then s.spoil.zones.get k else s.spoil.zones.get k - 1) ∧
      ∀ p e, headPosOf s k = some p → s.spoil.zones.get k ≠ 0 → u.pipe.entries[p]? = some (.set e) →
        e.causes.getLsbD 0 = true ∧ e.plies.getLsbD k.val = true) ∧
    ∃ (gone : Entry) (d : State), Departs t s gone ∧ d = decideEntry t.policy gone s ∧
      u.report.queue = d.report.queue ∧ d.report.flags &&& u.report.flags = d.report.flags ∧
      u.spoil = { d.spoil with
        zones := u.spoil.zones
        gate := d.spoil.gate || decide (u.ctl.job = .ready)
        remakes := if s.ctl.job = .run then d.spoil.remakes.drop 1 else d.spoil.remakes } ∧
      (s.ctl.job ≠ .run → u.streams = s.streams ∧ u.store = s.store ∧ u.pipe.opened = s.pipe.opened ∧
        (u.ctl.job.running = true → u.pipe.entries[0]? = some .blank)) ∧
      (s.ctl.job = .drain → (∀ e ∈ s.pipe.entries.dropLast, e = .blank) →
        (u.ctl.job = .ready ∧ u.pipe.entries = [] ∧ u.spoil.gate = true) ∨
          (u.ctl.job = .halted ∧ ¬(first = [] ∧ gone = .blank))) ∧
      (s.ctl.job = .run →
        (∀ x rest, d.spoil.remakes = x :: rest →
          u.pipe.opened = s.pipe.opened ∧ u.streams = s.streams ∧ u.store = s.store ∧
          ∃ e : SetEntry, u.pipe.entries[0]? = some (.set e) ∧ e.serial = x.serial ∧ e.attempt = x.attempt + 1 ∧
            e.values = x.values ∧ e.stamp = s.pipe.pitchCount + 1) ∧
        (∀ g, gone = .set g → s.spoil.remakes = [] → t.policy = .remake → g.causes ≠ 0 → g.attempt ≠ 3 →
          u.spoil.remakes = [] ∧ ∃ e : SetEntry, u.pipe.entries[0]? = some (.set e) ∧ e.serial = g.serial ∧
            e.attempt = g.attempt + 1 ∧ e.values = g.values) ∧
        (d.spoil.remakes = [] →
          (drawAnswer t s = .exhausted ∨ s.pipe.opened = 0xFFFFFFFF →
            u.ctl.job ≠ .run ∧ u.pipe.entries[0]? = some .blank ∧ u.streams = s.streams ∧ u.store = s.store) ∧
          (s.pipe.opened ≠ 0xFFFFFFFF →
            (drawAnswer t s = .waiting →
              u.streams = s.streams ∧ u.store = s.store ∧ u.pipe.opened = s.pipe.opened ∧
              (u.ctl.job = .run → ∃ cs ps, u.pipe.entries[0]? = some (.pending (s.pipe.pitchCount + 1) cs ps))) ∧
            (drawAnswer t s = .uncovered →
              Requested t (uncoveredLimit t s) s u ∧ u.pipe.opened = s.pipe.opened ∧
              u.pipe.entries[0]? = some .blank ∧ u.report.flags.getLsbD 16 = true) ∧
            (drawAnswer t s = .drawn → ∀ v, v = { s with streams := (drawAll t s.streams).2 } →
              Requested t (renewalAsked t v) v u ∧ u.pipe.opened = s.pipe.opened + 1 ∧
              ∃ e : SetEntry, u.pipe.entries[0]? = some (.set e) ∧ e.serial = s.pipe.opened + 1 ∧ e.attempt = 1 ∧
                e.values = (drawAll t s.streams).1 ∧ e.stamp = s.pipe.pitchCount + 1))))) ∧
  (∀ (s : State) (k : Ply),
    (∀ p, headPosOf s k = some p → s.spoil.zones.get k ≠ 0 → spliceStep s k = { s with
      spoil := { s.spoil with zones := s.spoil.zones.set k (s.spoil.zones.get k - 1) }
      pipe := { s.pipe with entries := s.pipe.entries.modify p (Entry.mark .splice (some k)) } }) ∧
    (headPosOf s k = none ∨ s.spoil.zones.get k = 0 → spliceStep s k = s))

/-- The gate decision: of a BLANK entry; of a clean set; and of a set with causes by policy, attempt and the room on the
remake list. GATE, the counts, the remake list and the record follow the table of R92. -/
def Obligations.GateDecisionTable : Prop :=
  ∀ (s : State) (e : SetEntry),
    (∀ p, decideEntry p .blank s =
      { s with spoil := { s.spoil with gate := true, blank := satAdd s.spoil.blank 1 } }) ∧
    (∀ p, e.causes = 0 →
      (decideEntry p (.set e) s).spoil = { s.spoil with gate := false, good := satAdd s.spoil.good 1 } ∧
      (decideEntry p (.set e) s).report = { s.report with queue := s.report.queue ++
        [.ofSet (if p = .proof then .proofGood else .good) e.serial e.attempt e.stamp 0 e.plies e.values] }) ∧
    (∀ p, e.causes ≠ 0 → p = .void ∨ p = .proof →
      (decideEntry p (.set e) s).spoil = { s.spoil with gate := true, void := satAdd s.spoil.void 1 } ∧
      (decideEntry p (.set e) s).report = { s.report with queue := s.report.queue ++
        [.ofSet (if p = .proof then .proofVoid else .void) e.serial e.attempt e.stamp e.causes e.plies e.values] }) ∧
    (e.causes ≠ 0 →
      (e.attempt ≠ 3 → s.spoil.remakes.length < 32 →
        (decideEntry .remake (.set e) s).spoil = { s.spoil with
          gate := true
          remade := satAdd s.spoil.remade 1
          remakes := s.spoil.remakes ++ [⟨e.serial, e.attempt, e.values, e.causes, e.plies⟩] } ∧
        (decideEntry .remake (.set e) s).report = { s.report with queue := s.report.queue ++
          [.ofSet .remake e.serial e.attempt e.stamp e.causes e.plies e.values] }) ∧
      (e.attempt = 3 →
        (decideEntry .remake (.set e) s).spoil = { s.spoil with gate := true, void := satAdd s.spoil.void 1 } ∧
        (decideEntry .remake (.set e) s).report.queue = s.report.queue ++
          [.ofSet .void e.serial e.attempt e.stamp (e.causes ||| BitVec.twoPow 14 10) e.plies e.values] ∧
        (decideEntry .remake (.set e) s).report.flags = s.report.flags ||| BitVec.twoPow 17 13) ∧
      (e.attempt ≠ 3 → 32 ≤ s.spoil.remakes.length →
        (decideEntry .remake (.set e) s).spoil = { s.spoil with gate := true, void := satAdd s.spoil.void 1 } ∧
        (decideEntry .remake (.set e) s).report.queue = s.report.queue ++
          [.ofSet .void e.serial e.attempt e.stamp (e.causes ||| BitVec.twoPow 14 11) e.plies e.values] ∧
        (decideEntry .remake (.set e) s).report.flags = s.report.flags ||| BitVec.twoPow 17 12))

/-- The opening at position 0: the oldest remake first, else by the answer of the streams; BLANK outside RUN (R36, R37, R30).
A reservation's notice asks again for a PENDING entry in RUN and resolves it by the answer, its stamp, causes and plies kept
(R39). DRAWN leaves the streams as the draw does (R5, R7, R8), and each then asks for the renewal that is due at its new value
(R16), S0 first as R7 draws them; UNCOVERED draws none, and each booked stream that lacks a limit with no request in flight
asks for one (R7, R15, R16), S0 first and before STORE_FAULT (DESIGN CHOICE, log 16). No other block takes part in the
requests but for a STORE_FAULT of R137. -/
def Obligations.OpeningBySource : Prop :=
  ∀ (t : Ticket) (s : State),
    (s.ctl.job ≠ .run → opening t s = (.blank, s)) ∧
    (s.ctl.job = .run → ∀ x rest, s.spoil.remakes = x :: rest → opening t s =
      (.set { serial := x.serial, attempt := x.attempt + 1, values := x.values, stamp := s.pipe.pitchCount,
              image := .const .none, fields := .const 0, tally := .const .none, causes := 0, plies := 0 },
        { s with spoil := { s.spoil with remakes := rest } })) ∧
    (s.ctl.job = .run → s.spoil.remakes = [] →
      (drawAnswer t s = .exhausted ∨ s.pipe.opened = 0xFFFFFFFF →
        opening t s = (.blank, claim .exhausted s)) ∧
      (s.pipe.opened ≠ 0xFFFFFFFF →
        (drawAnswer t s = .waiting → opening t s = (.pending s.pipe.pitchCount 0 0, s)) ∧
        (drawAnswer t s = .uncovered → opening t s = (.blank, raise .storeFault 0 0 (uncoveredRequests t s))) ∧
        (drawAnswer t s = .drawn → opening t s =
          (.set { serial := s.pipe.opened + 1, attempt := 1, values := (drawAll t s.streams).1,
                  stamp := s.pipe.pitchCount, image := .const .none, fields := .const 0, tally := .const .none,
                  causes := 0, plies := 0 },
            drawnRequests t { s with
              streams := (drawAll t s.streams).2
              pipe := { s.pipe with opened := s.pipe.opened + 1 } })))) ∧
    (s.ticket.active = none ∨ s.ctl.job ≠ .run ∨ pendingAtZero s = false → resolvePending s = s) ∧
    (s.ticket.active = some t → s.ctl.job = .run →
      ∀ stamp cs ps, s.pipe.entries[0]? = some (.pending stamp cs ps) →
      (drawAnswer t s = .exhausted ∨ s.pipe.opened = 0xFFFFFFFF →
        resolvePending s = claim .exhausted { s with pipe := blanked s.pipe }) ∧
      (s.pipe.opened ≠ 0xFFFFFFFF →
        (drawAnswer t s = .waiting → resolvePending s = s) ∧
        (drawAnswer t s = .uncovered →
          resolvePending s = raise .storeFault 0 0 (uncoveredRequests t { s with pipe := blanked s.pipe })) ∧
        (drawAnswer t s = .drawn → resolvePending s = drawnRequests t { s with
          streams := (drawAll t s.streams).2
          pipe := { s.pipe with
            opened := s.pipe.opened + 1
            entries := s.pipe.entries.set 0 (.set {
              serial := s.pipe.opened + 1, attempt := 1, values := (drawAll t s.streams).1, stamp,
              image := .const .none, fields := .const 0, tally := .const .none, causes := cs, plies := ps }) } }))) ∧
    Requested t (renewalAsked t s) s (drawnRequests t s) ∧ RequestFrame s (drawnRequests t s) ∧
    Requested t (uncoveredLimit t s) s (uncoveredRequests t s) ∧ RequestFrame s (uncoveredRequests t s)

/-! ## Number streams -/

/-- The answer to a draw request, first row first: an EXHAUSTED active stream; an uncovered booked stream without a request
in flight; one with a request in flight; else DRAWN (R7, R14). -/
def Obligations.DrawAnswerByRows : Prop :=
  ∀ (t : Ticket) (s : State),
    let lacks := fun i : StreamId => Booked t i ∧
      ∀ l, (streamAt s i).limit = some l → beyond (t.streams.get i).dir (streamAt s i).v l = true
    (drawAnswer t s = .exhausted ↔ ∃ i, (t.streams.get i).active = true ∧ (streamAt s i).status = .exhausted) ∧
    (drawAnswer t s = .uncovered ↔
      (∀ i, (t.streams.get i).active = true → (streamAt s i).status ≠ .exhausted) ∧
      ∃ i, lacks i ∧ (streamAt s i).inFlight = false) ∧
    (drawAnswer t s = .waiting ↔
      (∀ i, (t.streams.get i).active = true → (streamAt s i).status ≠ .exhausted) ∧
      (∃ i, lacks i) ∧ ∀ i, lacks i → (streamAt s i).inFlight = true) ∧
    (drawAnswer t s = .drawn ↔
      (∀ i, (t.streams.get i).active = true → (streamAt s i).status ≠ .exhausted) ∧ ∀ i, ¬lacks i)

/-- A set takes one value from each active stream and none from the others, each stream's draw recorded: the first value
drawn, the last, and the values drawn, a value repeated counted once (R7, R8). -/
def Obligations.SetDrawsActiveStreams : Prop :=
  ∀ (t : Ticket) (u : StreamUnit) (i : StreamId),
    ((t.streams.get i).active = false →
      (drawAll t u).1.get i = none ∧ (drawAll t u).2.each.get i = u.each.get i) ∧
    ((t.streams.get i).active = true →
      (drawAll t u).1.get i =
        some (if (t.streams.get i).mode = .fixed then (t.streams.get i).first else (u.each.get i).v) ∧
      ((drawAll t u).2.each.get i).drawn = true ∧
      some ((drawAll t u).2.each.get i).lastDrawn = (drawAll t u).1.get i ∧
      ((u.each.get i).drawn = true → ((drawAll t u).2.each.get i).firstDrawn = (u.each.get i).firstDrawn) ∧
      ((u.each.get i).drawn = false → some ((drawAll t u).2.each.get i).firstDrawn = (drawAll t u).1.get i ∧
        ((drawAll t u).2.each.get i).valuesDrawn = 1) ∧
      ((u.each.get i).drawn = true → ((drawAll t u).2.each.get i).valuesDrawn =
        if some (u.each.get i).lastDrawn = (drawAll t u).1.get i then (u.each.get i).valuesDrawn
        else satAdd (u.each.get i).valuesDrawn 1))

/-- One draw: a FIXED stream stays; a value is returned K times, then the next valid value follows, or the stream is
EXHAUSTED; under PROOF the next proof value follows (R5, R6, R21). The proof generator: a step shifts left, bit 0 the
exclusive-or of bits 23, 22, 21 and 16; a proof value is the register modulo 1,000,000 after 24 steps, and after 24 more
while its check is passed over (R20, R21). -/
def Obligations.DrawAdvancesStream : Prop :=
  (∀ (p : Policy) (d : StreamDesc) (x : StreamState) (g : BitVec 24),
    (d.mode = .fixed → drawStream p d x g = (d.first, recordDraw d.first x, g)) ∧
    (d.mode ≠ .fixed →
      (d.mode = .everyK → x.u.toNat + 1 < d.k →
        drawStream p d x g = (x.v, { recordDraw x.v x with u := x.u + 1 }, g)) ∧
      (d.mode = .perSet ∨ d.k ≤ x.u.toNat + 1 →
        (p = .proof → drawStream p d x g =
          (x.v, { recordDraw x.v x with u := 0, v := (proofValue d.check g).1 }, (proofValue d.check g).2)) ∧
        (p ≠ .proof → ∀ n, nextValid d x.v = some n →
          drawStream p d x g = (x.v, { recordDraw x.v x with u := 0, v := n }, g)) ∧
        (p ≠ .proof → nextValid d x.v = none →
          drawStream p d x g = (x.v, { recordDraw x.v x with u := 0, status := .exhausted }, g))))) ∧
  (∀ g : BitVec 24,
    ((genStep g).getLsbD 0 = (g.getLsbD 23 ^^ g.getLsbD 22 ^^ g.getLsbD 21 ^^ g.getLsbD 16)) ∧
    ∀ i < 23, (genStep g).getLsbD (i + 1) = g.getLsbD i) ∧
  (∀ (m : CheckMethod) (g : BitVec 24) (n : Nat), n < 16777216 →
    checkPasses m (proofOf (proofRegister g n)) = true →
    (∀ i < n, checkPasses m (proofOf (proofRegister g i)) = false) →
    proofValue m g = (proofOf (proofRegister g n), proofRegister g n))

/-- The next valid value is the first member of the step's lattice after the value that is not beyond last, lies in no
used skip range and passes its check (R3). -/
def Obligations.NextValidIsFirstOnLattice : Prop :=
  ∀ (d : StreamDesc) (v x : Word), d.step ≠ 0 →
    (nextValid d v = some x ↔ ∃ n : Nat, (x.toNat : Int) = v.toNat + (n + 1) * d.step ∧
      beyond d.dir x d.last = false ∧ admissible d x = true ∧
      ∀ m < n, ∀ y : Word, (y.toNat : Int) = v.toNat + (m + 1) * d.step → admissible d y = false) ∧
    (admissible d x = true ↔
      (∀ r ∈ d.skips, ¬(r.1.toNat ≤ r.2.toNat ∧ r.1.toNat ≤ x.toNat ∧ x.toNat ≤ r.2.toNat)) ∧
      (d.check = .mod11 → checkResult .mod11 x ≠ some 10))

/-- The check digits: MOD10W weights the digits 3 and 1 from the right, MOD11 2 to 7 in turn with 10 passed over, MOD7 is
the remainder by 7 (R9 to R12). -/
def Obligations.CheckDigitFormulas : Prop :=
  ∀ v : Word,
    checkResult .none v = none ∧
    checkResult .mod10w v = some ((10 -
      ((List.range 10).map fun i => v.toNat / 10 ^ i % 10 * (if i % 2 = 0 then 3 else 1)).sum % 10) % 10) ∧
    checkResult .mod11 v = some ((11 -
      ((List.range 10).map fun i => v.toNat / 10 ^ i % 10 * (2 + i % 6)).sum % 11) % 11) ∧
    checkResult .mod7 v = some (v.toNat % 7) ∧
    (∀ m, checkPasses m v = false ↔ m = .mod11 ∧ checkResult .mod11 v = some 10)

/-- The limits of reservation requests: 63 steps on from the value, or 64 from the old limit, or last where it is nearer;
a renewal while 32 steps or fewer remain and the limit is not last (R14 to R16). -/
def Obligations.ReservationLimits : Prop :=
  ∀ (d : StreamDesc) (x : StreamState) (v l z : Word), d.step ≠ 0 →
    ((z.toNat : Int) = v.toNat + 63 * d.step → beyond d.dir z d.last = false → initialLimit d v = z) ∧
    ((∀ y : Word, (y.toNat : Int) = v.toNat + 63 * d.step → beyond d.dir y d.last = true) →
      initialLimit d v = d.last) ∧
    ((z.toNat : Int) = l.toNat + 64 * d.step → beyond d.dir z d.last = false → renewalLimit d l = z) ∧
    ((∀ y : Word, (y.toNat : Int) = l.toNat + 64 * d.step → beyond d.dir y d.last = true) →
      renewalLimit d l = d.last) ∧
    (x.limit = none → renewalDue d x = none) ∧
    (x.limit = some l →
      (x.status = .live → x.inFlight = false → l ≠ d.last →
        (beyond d.dir x.v l = true ∨ ((l.toNat : Int) - x.v.toNat).natAbs < 33 * d.step.natAbs) →
        renewalDue d x = some (renewalLimit d l)) ∧
      (x.status ≠ .live ∨ x.inFlight = true ∨ l = d.last ∨
        (beyond d.dir x.v l = false ∧ 33 * d.step.natAbs ≤ ((l.toNat : Int) - x.v.toNat).natAbs) →
        renewalDue d x = none))

/-! ## Press lines -/

/-- A sample of the 17 inputs: the first after a reset sets the accepted levels; each later one moves every input by its
sample, its accepted level and its run count (R105), and an accepted edge is raised (R106). That an accepted edge waits on a
list for its own command, and that a level input's change has no effect at the sample, are the model's (DESIGN CHOICE, log 4).
-/
def Obligations.LineSampleTaken : Prop :=
  ∀ (levels : BitVec 18) (s : State),
    (s.resetting = true → exec (.lineSample levels) s = .next (quiet s)) ∧
    (s.resetting = false → s.lines.sampled = false → exec (.lineSample levels) s = .next { quiet s with
      lines := { s.lines with sampled := true, accepted := levels &&& 0x3FFFE } }) ∧
    (s.resetting = false → s.lines.sampled = true → s.lines.runs.length = 18 →
      ∃ u, exec (.lineSample levels) s = .next { quiet s with lines := u } ∧
        u = { s.lines with accepted := u.accepted, runs := u.runs, raised := u.raised, glitches := u.glitches } ∧
        u.glitches = satAdd s.lines.glitches (sampledInputs.filter fun n => decide (Glitched levels s n)).length ∧
        u.raised = s.lines.raised ++ sampledInputs.filter (fun n => decide (EdgeAt levels s n)) ∧
        ∀ n : Fin 18, n ≠ 0 →
          (levels.getLsbD n.val = s.lines.accepted.getLsbD n.val →
            u.accepted.getLsbD n.val = s.lines.accepted.getLsbD n.val ∧ u.runs.getD n.val 0 = 0) ∧
          (levels.getLsbD n.val ≠ s.lines.accepted.getLsbD n.val →
            (s.lines.runs.getD n.val 0).toNat < (setting s n).debounce →
            u.accepted.getLsbD n.val = s.lines.accepted.getLsbD n.val ∧
            u.runs.getD n.val 0 = s.lines.runs.getD n.val 0 + 1) ∧
          (Accepted levels s n → u.accepted.getLsbD n.val = levels.getLsbD n.val ∧ u.runs.getD n.val 0 = 0))

/-- The edges: BREAK k and JAM raise their faults in every job state; SPLICE k, in a running state with ply k enabled, marks
the entry at P_k, loads the counter with the zone less 1 and raises SPLICE; no edge, no effect (R87, R106, R107). -/
def Obligations.EdgesRaiseFaults : Prop :=
  ∀ (k : Ply) (s : State),
    (EdgeTaken (inBreak k) s → exec (.breakEdge k) s =
      .next (settle (raise .webBreak (plyNumber k) 0 (edgeState (inBreak k) s)))) ∧
    (EdgeTaken inJam s → exec .jamEdge s = .next (settle (raise .jam 0 0 (edgeState inJam s)))) ∧
    (EdgeTaken (inSplice k) s →
      (s.ctl.job.running = false ∨ headPosOf s k = none → exec (.spliceEdge k) s = .next (edgeState (inSplice k) s)) ∧
      (s.ctl.job.running = true → ∀ t p, s.ticket.active = some t → headPosOf s k = some p →
        exec (.spliceEdge k) s = .next (settle (raise .splice (plyNumber k) (entryAt s p).serialOf
          { edgeState (inSplice k) s with
            pipe := { s.pipe with entries := s.pipe.entries.modify p (Entry.mark .splice (some k)) }
            spoil := { s.spoil with zones := s.spoil.zones.set k ((t.plies.get k).zone - 1) } })))) ∧
    (¬EdgeTaken (inBreak k) s → exec (.breakEdge k) s = .next (quiet s)) ∧
    (¬EdgeTaken inJam s → exec .jamEdge s = .next (quiet s)) ∧
    (¬EdgeTaken (inSplice k) s → exec (.spliceEdge k) s = .next (quiet s)) ∧
    (¬EdgeTaken inCue s → exec .cueEdge s = .next (quiet s))

/-- The level inputs: HOLDREQ active is a hold cause and moves RUN to HOLD, inactive it is none; PWRWARN active raises
POWER_WARN once and quiesces a store that has not FAILED, inactive it returns the store, which chooses again (R108, R121,
R140). Before the first sample after a reset, during a reset, of a disabled input and without a change nothing happens. A
level command stands for its own acceptance (DESIGN CHOICE, log 4), and POWER_WARN is raised before the store is QUIESCED
(DESIGN CHOICE, log 16). -/
def Obligations.LevelInputsAct : Prop :=
  ∀ s : State,
    (s.resetting = true ∨ s.lines.sampled = false → ∀ active, exec (.holdreqChange active) s = .next (quiet s)) ∧
    (s.resetting = true ∨ s.lines.sampled = false →
      exec .pwrwarnActive s = .next (quiet s) ∧ exec .pwrwarnInactive s = .next (quiet s)) ∧
    (exec (.holdreqChange s.lines.holdreq) s = .next (quiet s)) ∧
    (s.lines.pwrwarn = true → exec .pwrwarnActive s = .next (quiet s)) ∧
    (s.lines.pwrwarn = false → exec .pwrwarnInactive s = .next (quiet s)) ∧
    ((setting s inHoldreq).enabled = false → exec (.holdreqChange true) s = .next (quiet s)) ∧
    ((setting s inPwrwarn).enabled = false → exec .pwrwarnActive s = .next (quiet s)) ∧
    (s.resetting = false → s.lines.sampled = true →
      (s.lines.holdreq = false → (setting s inHoldreq).enabled = true →
        (s.ctl.job = .run → exec (.holdreqChange true) s = .next (settle
          { levelState inHoldreq true s with
            lines := { (levelState inHoldreq true s).lines with holdreq := true }
            pipe := blanked s.pipe
            ctl := { s.ctl with job := .hold } })) ∧
        (s.ctl.job ≠ .run → exec (.holdreqChange true) s = .next (settle
          { levelState inHoldreq true s with
            lines := { (levelState inHoldreq true s).lines with holdreq := true } }))) ∧
      (s.lines.holdreq = true → exec (.holdreqChange false) s = .next (settle
        { levelState inHoldreq false s with
          lines := { (levelState inHoldreq false s).lines with holdreq := false } })) ∧
      (s.lines.pwrwarn = false → (setting s inPwrwarn).enabled = true →
        ∃ u, u = raise .powerWarn 0 0 { levelState inPwrwarn true s with
            lines := { (levelState inPwrwarn true s).lines with pwrwarn := true } } ∧
          ((∀ c, s.store.phase ≠ .failed c) → exec .pwrwarnActive s =
            .next (settle { u with store := { s.store with quiesced := true } })) ∧
          ((∃ c, s.store.phase = .failed c) → exec .pwrwarnActive s = .next (settle u))) ∧
      (s.lines.pwrwarn = true →
        ∃ u, u = { levelState inPwrwarn false s with
            lines := { (levelState inPwrwarn false s).lines with pwrwarn := false } } ∧
          (s.store.quiesced = false → exec .pwrwarnInactive s = .next (settle u)) ∧
          (s.store.quiesced = true → exec .pwrwarnInactive s =
            .next (settle (chooseNext (endRecovery { u with store := { s.store with quiesced := false } }))))))

/-! ## Tally verification -/

/-- A receiver in READY takes a character by its value and the assembly; a low stop bit discards the assembly and returns it
to HUNT; a CR completes the report; a receiver in HUNT that sees the line idle is READY (R72 to R74). -/
def Obligations.ReceiverTakesCharacters : Prop :=
  ∀ (k : Ply) (b : Byte) (s : State) (r : Receiver), r = s.tally.get k → s.resetting = false →
    (r.line ≠ .ready → ∀ stop, exec (.tallyCharacter k b stop) s = .next (quiet s)) ∧
    (r.line = .ready →
      exec (.tallyCharacter k b false) s =
        .next { quiet s with tally := s.tally.set k { r with line := .hunt, assembly := .discard } } ∧
      (∀ a : Assembly,
        ((∃ d : Fin 10, b = BitVec.ofNat 8 (0x30 + d.val) ∧
            ((r.assembly = .empty ∧ a = .digits [d]) ∨
             (∃ ds, r.assembly = .digits ds ∧ ds.length < 11 ∧ a = .digits (ds ++ [d])) ∨
             (∃ ds, r.assembly = .digits ds ∧ 11 ≤ ds.length ∧ a = .discard) ∨
             ((r.assembly = .query ∨ r.assembly = .discard) ∧ a = .discard))) ∨
         (b = 0x3F ∧ ((r.assembly = .empty ∧ a = .query) ∨ (r.assembly ≠ .empty ∧ a = .discard))) ∨
         (b = 0x0A ∧ a = r.assembly) ∨ (b = 0x0D ∧ r.assembly = .empty ∧ a = .empty) ∨
         ((b.toNat < 0x30 ∨ 0x39 < b.toNat) ∧ b ≠ 0x3F ∧ b ≠ 0x0A ∧ b ≠ 0x0D ∧ a = .discard)) →
        exec (.tallyCharacter k b true) s =
          .next { quiet s with tally := s.tally.set k { r with assembly := a } }) ∧
      (∀ rep : TallyReport,
        (∃ ds, r.assembly = .digits ds ∧ rep = .number ds) ∨ (r.assembly = .query ∧ rep = .noRead) ∨
          (r.assembly = .discard ∧ rep = .malformed) →
        exec (.tallyCharacter k 0x0D true) s =
          .next (completeReport k rep { quiet s with tally := s.tally.set k { r with assembly := .empty } }))) ∧
    (r.line = .hunt → exec (.tallyLineIdleSeen k) s =
      .next { quiet s with tally := s.tally.set k { r with line := .ready } }) ∧
    (r.line ≠ .hunt → exec (.tallyLineIdleSeen k) s = .next (quiet s))

/-- A completed report: counted; ignored outside the running states, of a disabled ply or tally, and on an entry that is not
SET; else the first one gives MATCH, MISMATCH or NOREAD, and any later one is a duplicate (R75 to R80).
A report on a tally state MISSING counts as a duplicate too, by the model's reading (DEDUCED, log 23). -/
def Obligations.ReportComparedAtCollator : Prop :=
  ∀ (k : Ply) (rep : TallyReport) (s : State) (t : Ticket), s.ticket.active = some t →
    (s.ctl.job.running = false ∨ (t.plies.get k).enabled = false ∨ (t.plies.get k).tally = false ∨
        (∀ e, entryAt s t.collator ≠ .set e) →
      completeReport k rep s = reportCounted k (decide (rep = .malformed)) true s) ∧
    (s.ctl.job.running = true → (t.plies.get k).enabled = true → (t.plies.get k).tally = true →
      ∀ e, entryAt s t.collator = .set e →
      (e.tally.get k = .none →
        (∀ ds v, rep = .number ds → e.values.get (t.plies.get k).tallyStream = some v →
          (Agrees (t.plies.get k).tallyCheck (t.streams.get (t.plies.get k).tallyStream).check v ds →
            completeReport k rep s = atCollator t (judged k .matched none e) (reportCounted k false false s)) ∧
          (¬Agrees (t.plies.get k).tallyCheck (t.streams.get (t.plies.get k).tallyStream).check v ds →
            completeReport k rep s = settle (raise .tallyMismatch (plyNumber k) e.serial
              (atCollator t (judged k .mismatch (some .tallyMismatch) e) (reportCounted k false false s))))) ∧
        (rep = .noRead ∨ rep = .malformed →
          completeReport k rep s = settle (raise .tallyNoread (plyNumber k) e.serial
            (atCollator t (judged k .noread (some .tallyNoread) e)
              (reportCounted k (decide (rep = .malformed)) false s))))) ∧
      (e.tally.get k ≠ .none →
        completeReport k rep s = settle (raise .tallyDuplicate (plyNumber k) e.serial
          (atCollator t (judged k (e.tally.get k) (some .tallyDuplicate) e)
            (reportCounted k (decide (rep = .malformed)) false s)))))

/-! ## The number store -/

/-- A completed append leaves its entry in its slot, sound where it verified (R135). Verified, the row has changed and its
requester is told: a reservation's limit is the requested one, its flag clear and the renewal asked for that is due at the new
limit, in CLOSING none (R17, R190); a RETIRE ends DONE (R148); the last close append ends CLOSE (R191). A first failure leaves
the request to be tried again. At a second STORE_FAULT is raised, a reservation's flag clears and its limit stays (R18), a
RETIRE ends STORE_UNAVAILABLE with the store state (R148), and a close append leaves its row as R145 says, CLOSE ending with
the lowest stream that failed (R189, R191). Each reservation's notice goes on to the pipeline, whose PENDING entry it resolves
(R39). The notice and CLOSE's end before the fault are the model's choice (DESIGN CHOICE, log 16); the resource falls free
after them (DEDUCED, log 14). The last sequence leaves
the store FAILED with cause WORN and no request (R130, R141). -/
def Obligations.AppendCompletes : Prop :=
  ∀ (s : State) (i : SectorId) (n : Nat) (seq : Word) (body : EntryBody) (v : Bool),
    s.store.op = some (.append i n seq body) →
    ∃ u, exec (.appendCompletion v) s = .next u ∧
      Sector.slot (u.store.array.get i) n = some { seq, body, sound := v } ∧
      (∀ m, m ≠ n → Sector.slot (u.store.array.get i) m = Sector.slot (s.store.array.get i) m) ∧
      (∀ j, j ≠ i → u.store.array.get j = s.store.array.get j) ∧
      (seq = 0xFFFFFFFE → u.store.phase = .failed .worn ∧ u.store.queue = [] ∧ u.store.op = none ∧
        u.store.quiesced = false ∧ u.report.flags.getLsbD 16 = true) ∧
      (seq ≠ 0xFFFFFFFE →
        (v = true → u.store.table = tableAfter body s.store.table) ∧
        (v = false → s.store.retried = true → u.report.flags.getLsbD 16 = true) ∧
        (v = false → s.store.retried = false → u.store.table = s.store.table) ∧
        (v = false → s.store.retried = false → (∀ r ∈ s.store.queue, (appendBody s.store r).isSome = true) →
          u.store.queue = s.store.queue ∧ u.store.retried = true) ∧
        (∀ x book dir l rest w, s.store.queue = .reservation x book dir l :: rest →
          w = written i n { seq, body, sound := v } s →
          (v = true → u = freed (resolvePending (renewed x
            (limited x (some (streamAt s x).requested) (answered (tableAfter body s.store.table) w))))) ∧
          (v = false → s.store.retried = true → u = freed (raise .storeFault 0 0 (resolvePending
            (limited x (streamAt s x).limit (answered s.store.table w))))) ∧
          (v = true → s.ctl.job ≠ .closing → (streamAt u x).limit = some (streamAt s x).requested) ∧
          (s.ctl.job ≠ .run ∨ pendingAtZero s = false → s.ctl.job ≠ .closing → ∀ t y, s.ticket.active = some t →
            (∀ c, s.store.phase ≠ .failed c) →
            (v = true → y = { streamAt s x with limit := some (streamAt s x).requested, inFlight := false } →
              streamAt u x = askedStream (if Booked t x then renewalDue (t.streams.get x) y else none)
                (decide (rest.length < 40)) y) ∧
            (v = false → s.store.retried = true → streamAt u x = { streamAt s x with inFlight := false })) ∧
          (v = true → s.ctl.job = .closing → u.ctl.job = .closing →
            (streamAt u x).limit = some (streamAt s x).requested ∧ (streamAt u x).inFlight = false ∧
            u.store.queue <:+ rest) ∧
          (v = false → s.store.retried = true → s.ctl.job = .closing → u.ctl.job = .closing →
            streamAt u x = { streamAt s x with inFlight := false })) ∧
        (∀ b rest p, s.store.queue = .retire b :: rest → s.ticket.waiting = some p → p.kind = .retire →
          v = true ∨ s.store.retried = true →
          u.ticket.waiting = none ∧ u.ticket.result =
            { code := 9, tag := p.tag, check := 0, echo1 := p.echo1, echo2 := p.echo2
              result := if v then .done else .storeUnavailable
              detail := if v then 0 else BitVec.ofNat 32 (storeStateCode s.store) } ∧
          (v = false → u.store.table = s.store.table)) ∧
        (∀ x b dir d rest p f, s.store.queue = .closeAppend x b dir d :: rest → s.ticket.waiting = some p →
          p.kind = .close → s.ctl.job = .closing → v = true ∨ s.store.retried = true →
          f = (if v then p.failed else some (match p.failed with | some y => if y ≤ x then y else x | none => x)) →
          (v = false → u.store.table = tableAfterFailedClose b s.store.table) ∧
          (rest.any Request.isCloseAppend = true → u.ctl.job = .closing →
            u.ticket.waiting = some { p with failed := f }) ∧
          (rest.any Request.isCloseAppend = false → s.ctl.inOperation = false → (∀ k, (feeder s k).queue = []) →
            JobEnded (if f = none then .done else .storeUnavailable)
              (match f with | some y => BitVec.ofNat 32 y.val | none => 0) (quiet s) u)))

/-- A compaction step leaves its entry in its slot. A header that verifies makes the target ACTIVE and the old sector FULL. A
copy that verifies is followed by the next row's, or by the header after the last; one that fails its verify is programmed
once more in the next slot; the second failure of a copy, or the failure of the header, abandons the compaction: the target
FULL, to be erased, the old sector ACTIVE still, and no fault raised (R138, R139). A compaction in progress afterwards, where
this one is over, is a new one. The last sequence leaves the store FAILED with cause WORN (R130, R141), the record of the
compaction kept (DEDUCED, log 20). -/
def Obligations.CompactionStepCompletes : Prop :=
  ∀ (s : State) (i : SectorId) (n : Nat) (seq : Word) (body : EntryBody) (c : Compaction) (v : Bool),
    s.store.op = some (.step i n seq body) → s.store.compaction = some c →
    ∃ u, exec (.compactionStepCompletion v) s = .next u ∧
      (seq = 0xFFFFFFFE → u.store.phase = .failed .worn ∧ u.store.queue = [] ∧ u.store.op = none ∧
        u.report.flags.getLsbD 16 = true) ∧
      Sector.slot (u.store.array.get i) n = some { seq, body, sound := v } ∧
      (∀ m, m ≠ n → Sector.slot (u.store.array.get i) m = Sector.slot (s.store.array.get i) m) ∧
      (∀ j, j ≠ i → u.store.array.get j = s.store.array.get j) ∧
      (seq ≠ 0xFFFFFFFE → u.store.table = s.store.table) ∧
      (∀ g, body = .header g → v = true →
        u.store.sectors.get c.target = .active ∧
        ∀ a, s.store.active = some a → a ≠ c.target →
          u.store.sectors.get a = .full ∨ u.store.sectors.get a = .erasing) ∧
      (∀ c', (∀ g, body ≠ .header g) →
        (v = true ∧ c' = { c with todo := c.todo.drop 1, retried := false }) ∨
          (v = false ∧ c.retried = false ∧ c' = { c with retried := true }) →
        u.store.compaction = some c' ∧ u.store.sectors = s.store.sectors ∧
        (seq ≠ 0xFFFFFFFE → u.store.queue = s.store.queue ∧
          (s.store.scanMade = true → s.store.quiesced = false → (∀ f, s.store.phase ≠ .failed f) →
            u.store.lastSeq = s.store.lastSeq + 1 ∧
            u.store.op = some (compactionStep { u.store with lastSeq := s.store.lastSeq } c')) ∧
          (s.store.scanMade = false ∨ s.store.quiesced = true → u.store.op = none ∧ u.store.lastSeq = s.store.lastSeq))) ∧
      ((∃ g, body = .header g) ∨ c.retried = true → v = false →
        (u.store.sectors.get c.target = .full ∨ u.store.sectors.get c.target = .erasing) ∧
        (∀ a, s.store.active = some a → a ≠ c.target → u.store.sectors.get a = .active) ∧
        (seq ≠ 0xFFFFFFFE → (∀ r ∈ s.store.queue, (appendBody s.store r).isSome = true) →
          u.store.fullWait = s.store.fullWait → (∀ k, (feeder s k).queue = []) → u.report = s.report)) ∧
      ((∃ g, body = .header g) ∨ (c.retried = true ∧ v = false) → ∀ c', u.store.compaction = some c' →
        c'.target ≠ c.target ∧ c'.todo = s.store.table ∧ c'.retried = false) ∧
      (seq ≠ 0xFFFFFFFE → ∀ w st, w = (written i n { seq, body, sound := v } s).store →
        ((∃ g, body = .header g) → v = true → st = { w with
          sectors := (match w.active with | some a => w.sectors.set a .full | none => w.sectors).set c.target .active
          compaction := none
          fullWait := false }) →
        ((∀ g, body ≠ .header g) → v = true →
          st = { w with compaction := some { c with todo := c.todo.drop 1, retried := false } }) →
        ((∀ g, body ≠ .header g) → v = false → c.retried = false →
          st = { w with compaction := some { c with retried := true } }) →
        ((∃ g, body = .header g) ∨ c.retried = true → v = false →
          st = { w with sectors := w.sectors.set c.target .full, compaction := none }) →
        u = freed { quiet s with store := st })

/-- A completed erase: verified, every slot erased and the sector ERASED; failed, the sector BAD with the slots the erase
left, and with fewer than two usable sectors the store FAILED with cause SECTORS (R136, R141). Which slots a failed erase
leaves kept, failing their check or erased is the command's to say (DESIGN CHOICE, log 8). -/
def Obligations.EraseCompletes : Prop :=
  ∀ (s : State) (i : SectorId) (kept torn : List Nat), s.store.op = some (.erase i) →
    (∃ u, exec (.eraseCompletion .erased) s = .next u ∧ u.store.array = s.store.array.set i [] ∧
      u.store.sectors.get i = .erased ∧ ((∀ c, s.store.phase ≠ .failed c) → ∀ c, u.store.phase ≠ .failed c)) ∧
    (∃ u, exec (.eraseCompletion (.failed kept torn)) s = .next u ∧ u.store.sectors.get i = .bad ∧
      (∀ j, j ≠ i → u.store.array.get j = s.store.array.get j) ∧
      (Sector.wf (s.store.array.get i) = true → ∀ m, Sector.slot (u.store.array.get i) m =
        if m ∈ kept then Sector.slot (s.store.array.get i) m
        else if m ∈ torn then (Sector.slot (s.store.array.get i) m).map (fun x => { x with sound := false })
        else none) ∧
      ((fours.filter fun j => decide (j ≠ i ∧ s.store.sectors.get j ≠ .bad)).length < 2 →
        u.store.phase = .failed .sectors ∧ u.report.flags.getLsbD 16 = true))

/-- The store starts the first that can be started: a compaction's next step, where one is in progress, or is needed (no
ACTIVE sector, or 32 free slots or fewer in it) and an ERASED sector is there; the head append in the ACTIVE sector's next
free slot with the next sequence; the erase of the lowest FULL sector; else nothing (R130, R134, R135, R138). A head append
that finds no free slot waits: STORE_FAULT where the wait is first found, and the erase may start (R137). A close append of a
book with no row is answered at once and the store then chooses again (R145). Before its scan it starts nothing (log 17). -/
def Obligations.StoreChoosesByOrder : Prop :=
  ∀ s : State,
    (s.store.op ≠ none ∨ s.store.quiesced = true ∨ (∃ c, s.store.phase = .failed c) ∨ s.store.scanMade = false →
      chooseNext s = s) ∧
    (s.store.op = none → s.store.quiesced = false → (∀ c, s.store.phase ≠ .failed c) → s.store.scanMade = true →
      (∀ c, s.store.compaction = some c → chooseNext s = { s with store := { s.store with
        lastSeq := s.store.lastSeq + 1, op := some (compactionStep s.store c) } }) ∧
      (s.store.compaction = none →
        (s.store.active = none ∨ ∃ a, s.store.active = some a ∧ Sector.free (s.store.array.get a) ≤ 32) →
        ∀ i c, s.store.lowest .erased = some i → c = { target := i, todo := s.store.table, retried := false } →
          chooseNext s = { s with store := { s.store with
            lastSeq := s.store.lastSeq + 1, compaction := some c, op := some (compactionStep s.store c) } }) ∧
      (s.store.compaction = none →
        (∃ a, s.store.active = some a ∧ 32 < Sector.free (s.store.array.get a)) ∨ s.store.lowest .erased = none →
        (∀ r rest body a, s.store.queue = r :: rest → appendBody s.store r = some body → s.store.active = some a →
          (Sector.free (s.store.array.get a) ≠ 0 →
            chooseNext s = { s with store := appendStarted s.store a body }) ∧
          (Sector.free (s.store.array.get a) = 0 → ∀ st,
            ((∃ i, s.store.lowest .full = some i ∧ st = eraseStarted { s.store with fullWait := true } i) ∨
              (s.store.lowest .full = none ∧ st = { s.store with fullWait := true })) →
            chooseNext s = if s.store.fullWait = true then { s with store := st }
              else raise .storeFault 0 0 { s with store := st })) ∧
        (∀ r rest, s.store.queue = r :: rest → appendBody s.store r = none →
          chooseNext s = chooseNext (closeIfDone { s with store := { s.store with queue := rest, retried := false } })) ∧
        (s.store.queue = [] ∨ (∃ r rest body, s.store.queue = r :: rest ∧ appendBody s.store r = some body ∧
            s.store.active = none) →
          (∀ i, s.store.lowest .full = some i → chooseNext s = { s with store := eraseStarted s.store i }) ∧
          (s.store.lowest .full = none → chooseNext s = s))))

/-! ## Faults and outputs -/

/-- A raise sets the kind's sticky flag, writes the history at the head index and applies the action in force by the job
state: none, HOLD from RUN with the FAULT cause, or HALTED from RUN, HOLD and DRAIN (R122, R123, R179, R181). Made inside a
pitch operation its action waits with the other claims; they are applied, each by the job state it finds, in an order the
rules leave free, when the operation has ended (R31, R122; log 6). -/
def Obligations.RaiseRecordsAndActs : Prop :=
  (∀ (kind : FaultKind) (ply : BitVec 3) (serial : Word) (s u : State),
    u = { s with report := recorded kind ply serial s } →
    (s.ctl.inOperation = false → raise kind ply serial s = acted (actsAs s kind) kind ply serial u) ∧
    (s.ctl.inOperation = true → raise kind ply serial s =
      { u with ctl := { s.ctl with claims := s.ctl.claims ++ [.action kind ply serial (actsAs s kind)] } })) ∧
  (∀ (act : FaultAction) (kind : FaultKind) (ply : BitVec 3) (serial : Word) (s : State),
    applyClaim (.action kind ply serial act) s = acted act kind ply serial s) ∧
  (∀ s : State, ∃ (cs : List Claim) (n : Nat), cs.Perm s.ctl.claims ∧
    endOperation s = cs.foldl (fun x c => applyClaim c x)
      { s with ctl := { s.ctl with inOperation := false, claims := [] }, freeCount := n })

/-- The outputs: PRESSHOLD and ESTOP from the job state and the hold causes, FAULT while a flag the fault line mask names is
set, ATTN at the threshold or while a flag the attention mask names is set; with no ticket every mask bit is set and the
threshold is 1 (R124, R182 to R184). -/
def Obligations.OutputsFollowState : Prop :=
  ∀ s : State,
    (pressHold s = true ↔ s.ctl.job = .hold ∨ s.ctl.job = .halted ∨
      (s.ctl.job = .drain ∧ (s.lines.holdreq = true ∨ 48 ≤ s.report.queue.length))) ∧
    (estop s = true ↔ s.ctl.job = .halted) ∧
    (s.ticket.active = none → (faultOut s = true ↔ s.report.flags ≠ 0) ∧
      (attnOut s = true ↔ 1 ≤ s.report.queue.length ∨ s.report.flags ≠ 0)) ∧
    (∀ t, s.ticket.active = some t →
      (faultOut s = true ↔ ∃ n < 17, s.report.flags.getLsbD n = true ∧ t.faultLine.getLsbD n = true) ∧
      (attnOut s = true ↔ t.attention ≤ s.report.queue.length ∨
        ∃ n < 17, s.report.flags.getLsbD n = true ∧ t.attnMask.getLsbD n = true))
end

