-- ==== Sys2Proof/Laws/State.lean ====
section
/-! SUPPORT. Laws/State.lean: what each setter of State leaves in each field, and the containers' get and set. -/

namespace Sys2Proof

namespace Four

@[simp] theorem get_const {α : Type} (x : α) (i : Fin 4) : (Four.const x).get i = x := by fin_cases i <;> rfl

@[simp] theorem get_map {α β : Type} (f : α → β) (v : Four α) (i : Fin 4) : (v.map f).get i = f (v.get i) := by
  fin_cases i <;> rfl

@[simp] theorem get_set_same {α : Type} (v : Four α) (i : Fin 4) (x : α) : (v.set i x).get i = x := by
  fin_cases i <;> rfl

theorem get_set_other {α : Type} (v : Four α) {i j : Fin 4} (x : α) (h : i ≠ j) : (v.set i x).get j = v.get j := by
  fin_cases i <;> fin_cases j <;> first | rfl | exact absurd rfl h

theorem get_set {α : Type} (v : Four α) (i j : Fin 4) (x : α) :
    (v.set i x).get j = if j = i then x else v.get j := by
  fin_cases i <;> fin_cases j <;> rfl

end Four

namespace Six

@[simp] theorem get_const {α : Type} (x : α) (i : Fin 6) : (Six.const x).get i = x := by fin_cases i <;> rfl

@[simp] theorem get_map {α β : Type} (f : α → β) (v : Six α) (i : Fin 6) : (v.map f).get i = f (v.get i) := by
  fin_cases i <;> rfl

@[simp] theorem get_set_same {α : Type} (v : Six α) (i : Fin 6) (x : α) : (v.set i x).get i = x := by
  fin_cases i <;> rfl

theorem get_set_other {α : Type} (v : Six α) {i j : Fin 6} (x : α) (h : i ≠ j) : (v.set i x).get j = v.get j := by
  fin_cases i <;> fin_cases j <;> first | rfl | exact absurd rfl h

theorem get_set {α : Type} (v : Six α) (i j : Fin 6) (x : α) :
    (v.set i x).get j = if j = i then x else v.get j := by
  fin_cases i <;> fin_cases j <;> rfl

end Six

namespace Machine.State

variable (s : State)

@[simp] theorem setBus_path (x : Bus) : (s.setBus x).path = s.path := rfl
@[simp] theorem setBus_bus (x : Bus) : (s.setBus x).bus = x := rfl
@[simp] theorem setBus_ticket (x : Bus) : (s.setBus x).ticket = s.ticket := rfl
@[simp] theorem setBus_streams (x : Bus) : (s.setBus x).streams = s.streams := rfl
@[simp] theorem setBus_pipe (x : Bus) : (s.setBus x).pipe = s.pipe := rfl
@[simp] theorem setBus_tally (x : Bus) : (s.setBus x).tally = s.tally := rfl
@[simp] theorem setBus_spoil (x : Bus) : (s.setBus x).spoil = s.spoil := rfl
@[simp] theorem setBus_lines (x : Bus) : (s.setBus x).lines = s.lines := rfl
@[simp] theorem setBus_timer (x : Bus) : (s.setBus x).timer = s.timer := rfl
@[simp] theorem setBus_ctl (x : Bus) : (s.setBus x).ctl = s.ctl := rfl
@[simp] theorem setBus_store (x : Bus) : (s.setBus x).store = s.store := rfl
@[simp] theorem setBus_report (x : Bus) : (s.setBus x).report = s.report := rfl
@[simp] theorem setBus_resetting (x : Bus) : (s.setBus x).resetting = s.resetting := rfl
@[simp] theorem setBus_freeCount (x : Bus) : (s.setBus x).freeCount = s.freeCount := rfl
@[simp] theorem setBus_pending (x : Bus) : (s.setBus x).pending = s.pending := rfl

@[simp] theorem setPath_path (x : Path) : (s.setPath x).path = x := rfl
@[simp] theorem setPath_bus (x : Path) : (s.setPath x).bus = s.bus := rfl
@[simp] theorem setPath_ticket (x : Path) : (s.setPath x).ticket = s.ticket := rfl
@[simp] theorem setPath_streams (x : Path) : (s.setPath x).streams = s.streams := rfl
@[simp] theorem setPath_pipe (x : Path) : (s.setPath x).pipe = s.pipe := rfl
@[simp] theorem setPath_tally (x : Path) : (s.setPath x).tally = s.tally := rfl
@[simp] theorem setPath_spoil (x : Path) : (s.setPath x).spoil = s.spoil := rfl
@[simp] theorem setPath_lines (x : Path) : (s.setPath x).lines = s.lines := rfl
@[simp] theorem setPath_timer (x : Path) : (s.setPath x).timer = s.timer := rfl
@[simp] theorem setPath_ctl (x : Path) : (s.setPath x).ctl = s.ctl := rfl
@[simp] theorem setPath_store (x : Path) : (s.setPath x).store = s.store := rfl
@[simp] theorem setPath_report (x : Path) : (s.setPath x).report = s.report := rfl
@[simp] theorem setPath_resetting (x : Path) : (s.setPath x).resetting = s.resetting := rfl
@[simp] theorem setPath_freeCount (x : Path) : (s.setPath x).freeCount = s.freeCount := rfl
@[simp] theorem setPath_pending (x : Path) : (s.setPath x).pending = s.pending := rfl

@[simp] theorem setTicket_path (x : TicketBlock) : (s.setTicket x).path = s.path := rfl
@[simp] theorem setTicket_bus (x : TicketBlock) : (s.setTicket x).bus = s.bus := rfl
@[simp] theorem setTicket_ticket (x : TicketBlock) : (s.setTicket x).ticket = x := rfl
@[simp] theorem setTicket_streams (x : TicketBlock) : (s.setTicket x).streams = s.streams := rfl
@[simp] theorem setTicket_pipe (x : TicketBlock) : (s.setTicket x).pipe = s.pipe := rfl
@[simp] theorem setTicket_tally (x : TicketBlock) : (s.setTicket x).tally = s.tally := rfl
@[simp] theorem setTicket_spoil (x : TicketBlock) : (s.setTicket x).spoil = s.spoil := rfl
@[simp] theorem setTicket_lines (x : TicketBlock) : (s.setTicket x).lines = s.lines := rfl
@[simp] theorem setTicket_timer (x : TicketBlock) : (s.setTicket x).timer = s.timer := rfl
@[simp] theorem setTicket_ctl (x : TicketBlock) : (s.setTicket x).ctl = s.ctl := rfl
@[simp] theorem setTicket_store (x : TicketBlock) : (s.setTicket x).store = s.store := rfl
@[simp] theorem setTicket_report (x : TicketBlock) : (s.setTicket x).report = s.report := rfl
@[simp] theorem setTicket_resetting (x : TicketBlock) : (s.setTicket x).resetting = s.resetting := rfl
@[simp] theorem setTicket_freeCount (x : TicketBlock) : (s.setTicket x).freeCount = s.freeCount := rfl
@[simp] theorem setTicket_pending (x : TicketBlock) : (s.setTicket x).pending = s.pending := rfl

@[simp] theorem setStreams_path (x : StreamUnit) : (s.setStreams x).path = s.path := rfl
@[simp] theorem setStreams_bus (x : StreamUnit) : (s.setStreams x).bus = s.bus := rfl
@[simp] theorem setStreams_ticket (x : StreamUnit) : (s.setStreams x).ticket = s.ticket := rfl
@[simp] theorem setStreams_streams (x : StreamUnit) : (s.setStreams x).streams = x := rfl
@[simp] theorem setStreams_pipe (x : StreamUnit) : (s.setStreams x).pipe = s.pipe := rfl
@[simp] theorem setStreams_tally (x : StreamUnit) : (s.setStreams x).tally = s.tally := rfl
@[simp] theorem setStreams_spoil (x : StreamUnit) : (s.setStreams x).spoil = s.spoil := rfl
@[simp] theorem setStreams_lines (x : StreamUnit) : (s.setStreams x).lines = s.lines := rfl
@[simp] theorem setStreams_timer (x : StreamUnit) : (s.setStreams x).timer = s.timer := rfl
@[simp] theorem setStreams_ctl (x : StreamUnit) : (s.setStreams x).ctl = s.ctl := rfl
@[simp] theorem setStreams_store (x : StreamUnit) : (s.setStreams x).store = s.store := rfl
@[simp] theorem setStreams_report (x : StreamUnit) : (s.setStreams x).report = s.report := rfl
@[simp] theorem setStreams_resetting (x : StreamUnit) : (s.setStreams x).resetting = s.resetting := rfl
@[simp] theorem setStreams_freeCount (x : StreamUnit) : (s.setStreams x).freeCount = s.freeCount := rfl
@[simp] theorem setStreams_pending (x : StreamUnit) : (s.setStreams x).pending = s.pending := rfl

@[simp] theorem setPipe_path (x : Pipeline) : (s.setPipe x).path = s.path := rfl
@[simp] theorem setPipe_bus (x : Pipeline) : (s.setPipe x).bus = s.bus := rfl
@[simp] theorem setPipe_ticket (x : Pipeline) : (s.setPipe x).ticket = s.ticket := rfl
@[simp] theorem setPipe_streams (x : Pipeline) : (s.setPipe x).streams = s.streams := rfl
@[simp] theorem setPipe_pipe (x : Pipeline) : (s.setPipe x).pipe = x := rfl
@[simp] theorem setPipe_tally (x : Pipeline) : (s.setPipe x).tally = s.tally := rfl
@[simp] theorem setPipe_spoil (x : Pipeline) : (s.setPipe x).spoil = s.spoil := rfl
@[simp] theorem setPipe_lines (x : Pipeline) : (s.setPipe x).lines = s.lines := rfl
@[simp] theorem setPipe_timer (x : Pipeline) : (s.setPipe x).timer = s.timer := rfl
@[simp] theorem setPipe_ctl (x : Pipeline) : (s.setPipe x).ctl = s.ctl := rfl
@[simp] theorem setPipe_store (x : Pipeline) : (s.setPipe x).store = s.store := rfl
@[simp] theorem setPipe_report (x : Pipeline) : (s.setPipe x).report = s.report := rfl
@[simp] theorem setPipe_resetting (x : Pipeline) : (s.setPipe x).resetting = s.resetting := rfl
@[simp] theorem setPipe_freeCount (x : Pipeline) : (s.setPipe x).freeCount = s.freeCount := rfl
@[simp] theorem setPipe_pending (x : Pipeline) : (s.setPipe x).pending = s.pending := rfl

@[simp] theorem setTally_path (x : Six Receiver) : (s.setTally x).path = s.path := rfl
@[simp] theorem setTally_bus (x : Six Receiver) : (s.setTally x).bus = s.bus := rfl
@[simp] theorem setTally_ticket (x : Six Receiver) : (s.setTally x).ticket = s.ticket := rfl
@[simp] theorem setTally_streams (x : Six Receiver) : (s.setTally x).streams = s.streams := rfl
@[simp] theorem setTally_pipe (x : Six Receiver) : (s.setTally x).pipe = s.pipe := rfl
@[simp] theorem setTally_tally (x : Six Receiver) : (s.setTally x).tally = x := rfl
@[simp] theorem setTally_spoil (x : Six Receiver) : (s.setTally x).spoil = s.spoil := rfl
@[simp] theorem setTally_lines (x : Six Receiver) : (s.setTally x).lines = s.lines := rfl
@[simp] theorem setTally_timer (x : Six Receiver) : (s.setTally x).timer = s.timer := rfl
@[simp] theorem setTally_ctl (x : Six Receiver) : (s.setTally x).ctl = s.ctl := rfl
@[simp] theorem setTally_store (x : Six Receiver) : (s.setTally x).store = s.store := rfl
@[simp] theorem setTally_report (x : Six Receiver) : (s.setTally x).report = s.report := rfl
@[simp] theorem setTally_resetting (x : Six Receiver) : (s.setTally x).resetting = s.resetting := rfl
@[simp] theorem setTally_freeCount (x : Six Receiver) : (s.setTally x).freeCount = s.freeCount := rfl
@[simp] theorem setTally_pending (x : Six Receiver) : (s.setTally x).pending = s.pending := rfl

@[simp] theorem setSpoil_path (x : SpoilUnit) : (s.setSpoil x).path = s.path := rfl
@[simp] theorem setSpoil_bus (x : SpoilUnit) : (s.setSpoil x).bus = s.bus := rfl
@[simp] theorem setSpoil_ticket (x : SpoilUnit) : (s.setSpoil x).ticket = s.ticket := rfl
@[simp] theorem setSpoil_streams (x : SpoilUnit) : (s.setSpoil x).streams = s.streams := rfl
@[simp] theorem setSpoil_pipe (x : SpoilUnit) : (s.setSpoil x).pipe = s.pipe := rfl
@[simp] theorem setSpoil_tally (x : SpoilUnit) : (s.setSpoil x).tally = s.tally := rfl
@[simp] theorem setSpoil_spoil (x : SpoilUnit) : (s.setSpoil x).spoil = x := rfl
@[simp] theorem setSpoil_lines (x : SpoilUnit) : (s.setSpoil x).lines = s.lines := rfl
@[simp] theorem setSpoil_timer (x : SpoilUnit) : (s.setSpoil x).timer = s.timer := rfl
@[simp] theorem setSpoil_ctl (x : SpoilUnit) : (s.setSpoil x).ctl = s.ctl := rfl
@[simp] theorem setSpoil_store (x : SpoilUnit) : (s.setSpoil x).store = s.store := rfl
@[simp] theorem setSpoil_report (x : SpoilUnit) : (s.setSpoil x).report = s.report := rfl
@[simp] theorem setSpoil_resetting (x : SpoilUnit) : (s.setSpoil x).resetting = s.resetting := rfl
@[simp] theorem setSpoil_freeCount (x : SpoilUnit) : (s.setSpoil x).freeCount = s.freeCount := rfl
@[simp] theorem setSpoil_pending (x : SpoilUnit) : (s.setSpoil x).pending = s.pending := rfl

@[simp] theorem setLines_path (x : LineMonitor) : (s.setLines x).path = s.path := rfl
@[simp] theorem setLines_bus (x : LineMonitor) : (s.setLines x).bus = s.bus := rfl
@[simp] theorem setLines_ticket (x : LineMonitor) : (s.setLines x).ticket = s.ticket := rfl
@[simp] theorem setLines_streams (x : LineMonitor) : (s.setLines x).streams = s.streams := rfl
@[simp] theorem setLines_pipe (x : LineMonitor) : (s.setLines x).pipe = s.pipe := rfl
@[simp] theorem setLines_tally (x : LineMonitor) : (s.setLines x).tally = s.tally := rfl
@[simp] theorem setLines_spoil (x : LineMonitor) : (s.setLines x).spoil = s.spoil := rfl
@[simp] theorem setLines_lines (x : LineMonitor) : (s.setLines x).lines = x := rfl
@[simp] theorem setLines_timer (x : LineMonitor) : (s.setLines x).timer = s.timer := rfl
@[simp] theorem setLines_ctl (x : LineMonitor) : (s.setLines x).ctl = s.ctl := rfl
@[simp] theorem setLines_store (x : LineMonitor) : (s.setLines x).store = s.store := rfl
@[simp] theorem setLines_report (x : LineMonitor) : (s.setLines x).report = s.report := rfl
@[simp] theorem setLines_resetting (x : LineMonitor) : (s.setLines x).resetting = s.resetting := rfl
@[simp] theorem setLines_freeCount (x : LineMonitor) : (s.setLines x).freeCount = s.freeCount := rfl
@[simp] theorem setLines_pending (x : LineMonitor) : (s.setLines x).pending = s.pending := rfl

@[simp] theorem setTimer_path (x : PitchTimer) : (s.setTimer x).path = s.path := rfl
@[simp] theorem setTimer_bus (x : PitchTimer) : (s.setTimer x).bus = s.bus := rfl
@[simp] theorem setTimer_ticket (x : PitchTimer) : (s.setTimer x).ticket = s.ticket := rfl
@[simp] theorem setTimer_streams (x : PitchTimer) : (s.setTimer x).streams = s.streams := rfl
@[simp] theorem setTimer_pipe (x : PitchTimer) : (s.setTimer x).pipe = s.pipe := rfl
@[simp] theorem setTimer_tally (x : PitchTimer) : (s.setTimer x).tally = s.tally := rfl
@[simp] theorem setTimer_spoil (x : PitchTimer) : (s.setTimer x).spoil = s.spoil := rfl
@[simp] theorem setTimer_lines (x : PitchTimer) : (s.setTimer x).lines = s.lines := rfl
@[simp] theorem setTimer_timer (x : PitchTimer) : (s.setTimer x).timer = x := rfl
@[simp] theorem setTimer_ctl (x : PitchTimer) : (s.setTimer x).ctl = s.ctl := rfl
@[simp] theorem setTimer_store (x : PitchTimer) : (s.setTimer x).store = s.store := rfl
@[simp] theorem setTimer_report (x : PitchTimer) : (s.setTimer x).report = s.report := rfl
@[simp] theorem setTimer_resetting (x : PitchTimer) : (s.setTimer x).resetting = s.resetting := rfl
@[simp] theorem setTimer_freeCount (x : PitchTimer) : (s.setTimer x).freeCount = s.freeCount := rfl
@[simp] theorem setTimer_pending (x : PitchTimer) : (s.setTimer x).pending = s.pending := rfl

@[simp] theorem setCtl_path (x : JobControl) : (s.setCtl x).path = s.path := rfl
@[simp] theorem setCtl_bus (x : JobControl) : (s.setCtl x).bus = s.bus := rfl
@[simp] theorem setCtl_ticket (x : JobControl) : (s.setCtl x).ticket = s.ticket := rfl
@[simp] theorem setCtl_streams (x : JobControl) : (s.setCtl x).streams = s.streams := rfl
@[simp] theorem setCtl_pipe (x : JobControl) : (s.setCtl x).pipe = s.pipe := rfl
@[simp] theorem setCtl_tally (x : JobControl) : (s.setCtl x).tally = s.tally := rfl
@[simp] theorem setCtl_spoil (x : JobControl) : (s.setCtl x).spoil = s.spoil := rfl
@[simp] theorem setCtl_lines (x : JobControl) : (s.setCtl x).lines = s.lines := rfl
@[simp] theorem setCtl_timer (x : JobControl) : (s.setCtl x).timer = s.timer := rfl
@[simp] theorem setCtl_ctl (x : JobControl) : (s.setCtl x).ctl = x := rfl
@[simp] theorem setCtl_store (x : JobControl) : (s.setCtl x).store = s.store := rfl
@[simp] theorem setCtl_report (x : JobControl) : (s.setCtl x).report = s.report := rfl
@[simp] theorem setCtl_resetting (x : JobControl) : (s.setCtl x).resetting = s.resetting := rfl
@[simp] theorem setCtl_freeCount (x : JobControl) : (s.setCtl x).freeCount = s.freeCount := rfl
@[simp] theorem setCtl_pending (x : JobControl) : (s.setCtl x).pending = s.pending := rfl

@[simp] theorem setStore_path (x : Store) : (s.setStore x).path = s.path := rfl
@[simp] theorem setStore_bus (x : Store) : (s.setStore x).bus = s.bus := rfl
@[simp] theorem setStore_ticket (x : Store) : (s.setStore x).ticket = s.ticket := rfl
@[simp] theorem setStore_streams (x : Store) : (s.setStore x).streams = s.streams := rfl
@[simp] theorem setStore_pipe (x : Store) : (s.setStore x).pipe = s.pipe := rfl
@[simp] theorem setStore_tally (x : Store) : (s.setStore x).tally = s.tally := rfl
@[simp] theorem setStore_spoil (x : Store) : (s.setStore x).spoil = s.spoil := rfl
@[simp] theorem setStore_lines (x : Store) : (s.setStore x).lines = s.lines := rfl
@[simp] theorem setStore_timer (x : Store) : (s.setStore x).timer = s.timer := rfl
@[simp] theorem setStore_ctl (x : Store) : (s.setStore x).ctl = s.ctl := rfl
@[simp] theorem setStore_store (x : Store) : (s.setStore x).store = x := rfl
@[simp] theorem setStore_report (x : Store) : (s.setStore x).report = s.report := rfl
@[simp] theorem setStore_resetting (x : Store) : (s.setStore x).resetting = s.resetting := rfl
@[simp] theorem setStore_freeCount (x : Store) : (s.setStore x).freeCount = s.freeCount := rfl
@[simp] theorem setStore_pending (x : Store) : (s.setStore x).pending = s.pending := rfl

@[simp] theorem setReport_path (x : Report) : (s.setReport x).path = s.path := rfl
@[simp] theorem setReport_bus (x : Report) : (s.setReport x).bus = s.bus := rfl
@[simp] theorem setReport_ticket (x : Report) : (s.setReport x).ticket = s.ticket := rfl
@[simp] theorem setReport_streams (x : Report) : (s.setReport x).streams = s.streams := rfl
@[simp] theorem setReport_pipe (x : Report) : (s.setReport x).pipe = s.pipe := rfl
@[simp] theorem setReport_tally (x : Report) : (s.setReport x).tally = s.tally := rfl
@[simp] theorem setReport_spoil (x : Report) : (s.setReport x).spoil = s.spoil := rfl
@[simp] theorem setReport_lines (x : Report) : (s.setReport x).lines = s.lines := rfl
@[simp] theorem setReport_timer (x : Report) : (s.setReport x).timer = s.timer := rfl
@[simp] theorem setReport_ctl (x : Report) : (s.setReport x).ctl = s.ctl := rfl
@[simp] theorem setReport_store (x : Report) : (s.setReport x).store = s.store := rfl
@[simp] theorem setReport_report (x : Report) : (s.setReport x).report = x := rfl
@[simp] theorem setReport_resetting (x : Report) : (s.setReport x).resetting = s.resetting := rfl
@[simp] theorem setReport_freeCount (x : Report) : (s.setReport x).freeCount = s.freeCount := rfl
@[simp] theorem setReport_pending (x : Report) : (s.setReport x).pending = s.pending := rfl

@[simp] theorem setFree_path (x : Nat) : (s.setFree x).path = s.path := rfl
@[simp] theorem setFree_bus (x : Nat) : (s.setFree x).bus = s.bus := rfl
@[simp] theorem setFree_ticket (x : Nat) : (s.setFree x).ticket = s.ticket := rfl
@[simp] theorem setFree_streams (x : Nat) : (s.setFree x).streams = s.streams := rfl
@[simp] theorem setFree_pipe (x : Nat) : (s.setFree x).pipe = s.pipe := rfl
@[simp] theorem setFree_tally (x : Nat) : (s.setFree x).tally = s.tally := rfl
@[simp] theorem setFree_spoil (x : Nat) : (s.setFree x).spoil = s.spoil := rfl
@[simp] theorem setFree_lines (x : Nat) : (s.setFree x).lines = s.lines := rfl
@[simp] theorem setFree_timer (x : Nat) : (s.setFree x).timer = s.timer := rfl
@[simp] theorem setFree_ctl (x : Nat) : (s.setFree x).ctl = s.ctl := rfl
@[simp] theorem setFree_store (x : Nat) : (s.setFree x).store = s.store := rfl
@[simp] theorem setFree_report (x : Nat) : (s.setFree x).report = s.report := rfl
@[simp] theorem setFree_resetting (x : Nat) : (s.setFree x).resetting = s.resetting := rfl
@[simp] theorem setFree_freeCount (x : Nat) : (s.setFree x).freeCount = x := rfl
@[simp] theorem setFree_pending (x : Nat) : (s.setFree x).pending = s.pending := rfl

@[simp] theorem setJob_path (j : JobState) : (s.setJob j).path = s.path := rfl
@[simp] theorem setJob_bus (j : JobState) : (s.setJob j).bus = s.bus := rfl
@[simp] theorem setJob_ticket (j : JobState) : (s.setJob j).ticket = s.ticket := rfl
@[simp] theorem setJob_streams (j : JobState) : (s.setJob j).streams = s.streams := rfl
@[simp] theorem setJob_pipe (j : JobState) : (s.setJob j).pipe = s.pipe := rfl
@[simp] theorem setJob_tally (j : JobState) : (s.setJob j).tally = s.tally := rfl
@[simp] theorem setJob_spoil (j : JobState) : (s.setJob j).spoil = s.spoil := rfl
@[simp] theorem setJob_lines (j : JobState) : (s.setJob j).lines = s.lines := rfl
@[simp] theorem setJob_timer (j : JobState) : (s.setJob j).timer = s.timer := rfl
@[simp] theorem setJob_ctl (j : JobState) : (s.setJob j).ctl = { s.ctl with job := j } := rfl
@[simp] theorem setJob_store (j : JobState) : (s.setJob j).store = s.store := rfl
@[simp] theorem setJob_report (j : JobState) : (s.setJob j).report = s.report := rfl
@[simp] theorem setJob_resetting (j : JobState) : (s.setJob j).resetting = s.resetting := rfl
@[simp] theorem setJob_freeCount (j : JobState) : (s.setJob j).freeCount = s.freeCount := rfl
@[simp] theorem setJob_pending (j : JobState) : (s.setJob j).pending = s.pending := rfl

@[simp] theorem setEntries_path (es : List Entry) : (s.setEntries es).path = s.path := rfl
@[simp] theorem setEntries_bus (es : List Entry) : (s.setEntries es).bus = s.bus := rfl
@[simp] theorem setEntries_ticket (es : List Entry) : (s.setEntries es).ticket = s.ticket := rfl
@[simp] theorem setEntries_streams (es : List Entry) : (s.setEntries es).streams = s.streams := rfl
@[simp] theorem setEntries_pipe (es : List Entry) : (s.setEntries es).pipe = { s.pipe with entries := es } := rfl
@[simp] theorem setEntries_tally (es : List Entry) : (s.setEntries es).tally = s.tally := rfl
@[simp] theorem setEntries_spoil (es : List Entry) : (s.setEntries es).spoil = s.spoil := rfl
@[simp] theorem setEntries_lines (es : List Entry) : (s.setEntries es).lines = s.lines := rfl
@[simp] theorem setEntries_timer (es : List Entry) : (s.setEntries es).timer = s.timer := rfl
@[simp] theorem setEntries_ctl (es : List Entry) : (s.setEntries es).ctl = s.ctl := rfl
@[simp] theorem setEntries_store (es : List Entry) : (s.setEntries es).store = s.store := rfl
@[simp] theorem setEntries_report (es : List Entry) : (s.setEntries es).report = s.report := rfl
@[simp] theorem setEntries_resetting (es : List Entry) : (s.setEntries es).resetting = s.resetting := rfl
@[simp] theorem setEntries_freeCount (es : List Entry) : (s.setEntries es).freeCount = s.freeCount := rfl
@[simp] theorem setEntries_pending (es : List Entry) : (s.setEntries es).pending = s.pending := rfl

end Machine.State
end Sys2Proof
end

