-- ==== Sys2Proof/Laws/Keeps.lean ====
section
/-! SUPPORT. Laws/Keeps.lean: what every operation of the part leaves alone: the queue of commands, the reset, the array,
the window, and the sizes and capacities of the lists. One lemma per operation; only the reset, the scan, a
programming and an erase do more. -/

namespace Sys2Proof.Machine

/-- `t` differs from `s` in none of these. -/
structure Keeps (s t : State) : Prop where
  pending : t.pending = s.pending
  resetting : t.resetting = s.resetting
  array : t.store.array = s.store.array
  wbase : t.path.wbase = s.path.wbase
  staged : t.ticket.staged.length = s.ticket.staged.length
  slots : s.report.slots.length = 16 → t.report.slots.length = 16
  runs : s.lines.runs.length = 18 → t.lines.runs.length = 18
  remakes : s.spoil.remakes.length ≤ 32 → t.spoil.remakes.length ≤ 32
  requests : s.store.queue.length ≤ 40 → t.store.queue.length ≤ 40

namespace Keeps

variable {s t u : State}

theorem refl (s : State) : Keeps s s := ⟨rfl, rfl, rfl, rfl, rfl, id, id, id, id⟩

theorem trans (h : Keeps s t) (k : Keeps t u) : Keeps s u :=
  ⟨k.pending.trans h.pending, k.resetting.trans h.resetting, k.array.trans h.array, k.wbase.trans h.wbase,
    k.staged.trans h.staged, fun x => k.slots (h.slots x), fun x => k.runs (h.runs x), fun x => k.remakes (h.remakes x),
    fun x => k.requests (h.requests x)⟩

/-- The last operation of a chain, and the chain before it. -/
theorem after (k : Keeps t u) (h : Keeps s t) : Keeps s u := h.trans k

theorem setBus (x : Bus) : Keeps s (s.setBus x) := ⟨rfl, rfl, rfl, rfl, rfl, id, id, id, id⟩
theorem setPath {x : Path} (h : x.wbase = s.path.wbase) : Keeps s (s.setPath x) :=
  ⟨rfl, rfl, rfl, h, rfl, id, id, id, id⟩
theorem setTicket {x : TicketBlock} (h : x.staged.length = s.ticket.staged.length) : Keeps s (s.setTicket x) :=
  ⟨rfl, rfl, rfl, rfl, h, id, id, id, id⟩
theorem setStreams (x : StreamUnit) : Keeps s (s.setStreams x) := ⟨rfl, rfl, rfl, rfl, rfl, id, id, id, id⟩
theorem setPipe (x : Pipeline) : Keeps s (s.setPipe x) := ⟨rfl, rfl, rfl, rfl, rfl, id, id, id, id⟩
theorem setEntries (x : List Entry) : Keeps s (s.setEntries x) := ⟨rfl, rfl, rfl, rfl, rfl, id, id, id, id⟩
theorem setTally (x : Six Receiver) : Keeps s (s.setTally x) := ⟨rfl, rfl, rfl, rfl, rfl, id, id, id, id⟩
theorem setSpoil {x : SpoilUnit} (h : s.spoil.remakes.length ≤ 32 → x.remakes.length ≤ 32) : Keeps s (s.setSpoil x) :=
  ⟨rfl, rfl, rfl, rfl, rfl, id, id, h, id⟩
theorem setLines {x : LineMonitor} (h : s.lines.runs.length = 18 → x.runs.length = 18) : Keeps s (s.setLines x) :=
  ⟨rfl, rfl, rfl, rfl, rfl, id, h, id, id⟩
theorem setTimer (x : PitchTimer) : Keeps s (s.setTimer x) := ⟨rfl, rfl, rfl, rfl, rfl, id, id, id, id⟩
theorem setCtl (x : JobControl) : Keeps s (s.setCtl x) := ⟨rfl, rfl, rfl, rfl, rfl, id, id, id, id⟩
theorem setJob (x : JobState) : Keeps s (s.setJob x) := ⟨rfl, rfl, rfl, rfl, rfl, id, id, id, id⟩
theorem setStore {x : Store} (h : x.array = s.store.array)
    (k : s.store.queue.length ≤ 40 → x.queue.length ≤ 40) : Keeps s (s.setStore x) :=
  ⟨rfl, rfl, h, rfl, rfl, id, id, id, k⟩
theorem setReport {x : Report} (h : s.report.slots.length = 16 → x.slots.length = 16) : Keeps s (s.setReport x) :=
  ⟨rfl, rfl, rfl, rfl, rfl, h, id, id, id⟩
theorem setFree (x : Nat) : Keeps s (s.setFree x) := ⟨rfl, rfl, rfl, rfl, rfl, id, id, id, id⟩

/-- A fold of steps that keep. -/
theorem foldl {α : Type} {f : State → α → State} (h : ∀ s x, Keeps s (f s x)) (l : List α) (s : State) :
    Keeps s (l.foldl f s) := by
  induction l generalizing s with
  | nil => exact refl s
  | cons x l ih => exact (h s x).trans (ih (f s x))

end Keeps

/-! ## Ops -/

theorem begin_keeps (s : State) : Keeps s (begin s) := .setBus _

theorem markAt_keeps (p : Nat) (c : Cause) (k : Option Ply) (s : State) : Keeps s (markAt p c k s) := .setEntries _

theorem changeSet_keeps (n : Word) (a : BitVec 2) (f : SetEntry → SetEntry) (s : State) :
    Keeps s (changeSet n a f s) := .setEntries _

theorem markSerial_keeps (n : Word) (a : BitVec 2) (c : Cause) (k : Option Ply) (s : State) :
    Keeps s (markSerial n a c k s) := changeSet_keeps ..

theorem blankPending_keeps (s : State) : Keeps s (blankPending s) := by
  unfold blankPending; split
  · exact .setPipe _
  · exact .refl s

theorem enterHold_keeps (s : State) : Keeps s (enterHold s) := by
  unfold enterHold
  exact .after (.setJob _) (blankPending_keeps s)

theorem enterDrain_keeps (s : State) : Keeps s (enterDrain s) := by
  unfold enterDrain
  exact .after (.setJob _) (blankPending_keeps s)

theorem enterReady_keeps (s : State) : Keeps s (enterReady s) := by
  unfold enterReady
  exact .after (.setCtl _) (.after (.setSpoil id) (.setEntries _))

theorem markHalt_keeps (s : State) : Keeps s (markHalt s) := .setEntries _

theorem enterHalted_keeps (kind : FaultKind) (ply : BitVec 3) (serial : Word) (s : State) :
    Keeps s (enterHalted kind ply serial s) := by
  unfold enterHalted
  exact .after (.setCtl _) (.after (markHalt_keeps _) (blankPending_keeps s))

theorem holdTest_keeps (s : State) : Keeps s (holdTest s) := by
  unfold holdTest; split
  · exact enterHold_keeps s
  · exact .refl s

theorem applyClaim_keeps (c : Claim) (s : State) : Keeps s (applyClaim c s) := by
  unfold applyClaim
  split
  · split
    · exact .refl s
    · split
      · exact .after (enterHold_keeps _) (.setCtl _)
      · exact .refl s
    · split
      · exact enterHalted_keeps ..
      · exact .refl s
  · split
    · exact enterDrain_keeps s
    · exact .refl s
  · split
    · exact enterReady_keeps s
    · exact .refl s
  · exact holdTest_keeps s

theorem claim_keeps (c : Claim) (s : State) : Keeps s (claim c s) := by
  unfold claim; split
  · exact .setCtl _
  · exact applyClaim_keeps c s

theorem endOperation_keeps (s : State) : Keeps s (endOperation s) := by
  unfold endOperation
  exact .after (.foldl (fun s c => applyClaim_keeps c s) _ _) (.after (.setFree _) (.setCtl _))

theorem recordFault_keeps (kind : FaultKind) (ply : BitVec 3) (serial : Word) (s : State) :
    Keeps s (recordFault kind ply serial s) := .setReport fun h => by simpa using h

theorem raise_keeps (kind : FaultKind) (ply : BitVec 3) (serial : Word) (s : State) :
    Keeps s (raise kind ply serial s) := by
  unfold raise
  exact .after (claim_keeps ..) (recordFault_keeps ..)

theorem raiseAll_keeps (rs : List (FaultKind × BitVec 3 × Word)) (s : State) : Keeps s (raiseAll rs s) := by
  unfold raiseAll
  generalize arrange s.freeCount rs = l
  exact .after (.foldl (fun _ _ => raise_keeps ..) l _) (.setFree _)

theorem pushRecord_keeps (r : Record) (s : State) : Keeps s (pushRecord r s) := by
  unfold pushRecord
  refine (Keeps.setReport (x := { s.report with queue := s.report.queue ++ [r] }) id).trans ?_
  simp only
  split
  · exact claim_keeps ..
  · exact .refl _

theorem pushRecords_keeps (rs : List Record) (s : State) : Keeps s (pushRecords rs s) := by
  unfold pushRecords
  exact .foldl (fun s r => pushRecord_keeps r s) _ _

theorem sendUp_keeps (q : Requester) (r : Response) (s : State) : Keeps s (sendUp q r s) := .setBus _

theorem passDown_keeps (q : Requester) (a : Access) (s : State) : Keeps s (passDown q a s) := .setBus _

theorem setFeeder_keeps (k : Ply) (f : Feeder) (s : State) : Keeps s (setFeeder k f s) := .setPath rfl

/-! ## The number store -/

/-- What the choice of an operation leaves of the store. -/
structure StoreKeeps (s t : Store) : Prop where
  array : t.array = s.array
  queue : t.queue.length ≤ s.queue.length

theorem StoreKeeps.refl (s : Store) : StoreKeeps s s := ⟨rfl, le_refl _⟩

theorem StoreKeeps.trans {s t u : Store} (h : StoreKeeps s t) (k : StoreKeeps t u) : StoreKeeps s u :=
  ⟨k.array.trans h.array, le_trans k.queue h.queue⟩

theorem startStep_keeps (c : Compaction) (st : Store) : StoreKeeps st (startStep c st) := ⟨rfl, le_refl _⟩

theorem compactionStart_keeps {st st' : Store} (h : compactionStart st = some st') : StoreKeeps st st' := by
  unfold compactionStart at h
  repeat' split at h
  all_goals first | (cases h; exact startStep_keeps ..) | cases h

theorem appendStart_keeps {st st' : Store} {b : EntryBody} (h : appendStart st b = some st') : StoreKeeps st st' := by
  unfold appendStart at h
  repeat' split at h
  all_goals first | (cases h; exact ⟨rfl, le_refl _⟩) | cases h

theorem eraseStart_keeps (st : Store) : StoreKeeps st (eraseStart st) := by
  unfold eraseStart; split
  · exact ⟨rfl, le_refl _⟩
  · exact .refl st

/-- What the choice of R134 can do: changes of the store, STORE_FAULT raised, CLOSE told, one after another. -/
theorem chooseFrom_rel {R : State → State → Prop} {told : State → State} (refl : ∀ s, R s s)
    (trans : ∀ s t u, R s t → R t u → R s u) (store : ∀ s st, StoreKeeps s.store st → R s (s.setStore st))
    (fault : ∀ s, R s (raise .storeFault 0 0 s)) (tell : ∀ s, R s (told s)) (n : Nat) (s : State) :
    R s (chooseFrom told n s) := by
  induction n generalizing s with
  | zero => exact refl s
  | succ n ih =>
    unfold chooseFrom
    split
    · split
      next st h => exact store _ _ (compactionStart_keeps h)
      next =>
        unfold chooseAppend
        split
        · exact store _ _ (eraseStart_keeps _)
        · split
          · exact trans _ _ _ (trans _ (dropHead s) _ (store _ _ ⟨rfl, by simp⟩) (tell _)) (ih _)
          · split
            next st h => exact store _ _ (appendStart_keeps h)
            next =>
              split
              · have k := store s (eraseStart { s.store with fullWait := true })
                  (StoreKeeps.trans (t := { s.store with fullWait := true }) ⟨rfl, le_refl _⟩ (eraseStart_keeps _))
                unfold waitFull
                dsimp only
                split
                · exact k
                · exact trans _ _ _ k (fault _)
              · exact store _ _ (eraseStart_keeps _)
    · exact refl s

theorem choose_keeps {told : State → State} (h : ∀ s, Keeps s (told s)) (s : State) : Keeps s (choose told s) :=
  chooseFrom_rel .refl (fun _ _ _ => .trans) (fun _ _ k => .setStore k.array (fun x => le_trans k.queue x))
    (fun _ => raise_keeps ..) h _ s

theorem refuses_full {st : Store} (h : refuses st = false) : st.queue.length < 40 := by
  unfold refuses at h
  rw [Bool.or_eq_false_iff, decide_eq_false_iff_not] at h
  simpa [Config.requestCapacity] using h.1

theorem joinTelling_keeps {told : State → State} (k : ∀ s, Keeps s (told s)) (r : Request) {s : State}
    (h : refuses s.store = false) : Keeps s (joinTelling told r s) := by
  refine .after (choose_keeps k _) (.setStore rfl fun _ => ?_)
  simpa using refuses_full h

theorem joinQueue_keeps (r : Request) {s : State} (h : refuses s.store = false) : Keeps s (joinQueue r s) :=
  joinTelling_keeps .refl r h

theorem endRecovery_keeps (s : State) : Keeps s (endRecovery s) := by
  unfold endRecovery; split
  · exact .setStore rfl id
  · exact .refl s

/-! ## Streams -/

theorem setStream_keeps (i : StreamId) (x : StreamState) (s : State) : Keeps s (setStream i x s) := .setStreams _

theorem request_keeps (i : StreamId) (d : StreamDesc) (l : Word) (s : State) : Keeps s (request i d l s) := by
  unfold request
  simp only
  split
  · exact setStream_keeps ..
  next h =>
    exact .after (joinQueue_keeps _ (by simpa [setStream] using h)) (setStream_keeps ..)

theorem testRenewal_keeps (t : Ticket) (i : StreamId) (s : State) : Keeps s (testRenewal t i s) := by
  unfold testRenewal; split
  · split
    · exact request_keeps ..
    · exact .refl s
  · exact .refl s

theorem askReservation_keeps (t : Ticket) (i : StreamId) (s : State) : Keeps s (askReservation t i s) := by
  unfold askReservation
  simp only
  split
  · split
    · exact request_keeps ..
    · exact testRenewal_keeps ..
  · exact .refl s

theorem startReservations_keeps (t : Ticket) (s : State) : Keeps s (startReservations t s) := by
  unfold startReservations
  exact .foldl (fun s i => askReservation_keeps t i s) _ _

theorem uncoveredRequests_keeps (t : Ticket) (s : State) : Keeps s (uncoveredRequests t s) := by
  refine .foldl (fun s i => ?_) _ _
  split
  · exact askReservation_keeps ..
  · exact .refl s

theorem drawnRequests_keeps (t : Ticket) (s : State) : Keeps s (drawnRequests t s) := by
  unfold drawnRequests
  exact .foldl (fun s i => testRenewal_keeps t i s) _ _

/-! ## The path unit -/

theorem completeField_keeps (k : Ply) (n : Word) (a : BitVec 2) (s : State) : Keeps s (completeField k n a s) := by
  unfold completeField; split
  · exact .refl s
  · exact changeSet_keeps ..

theorem applyPathMark_keeps (k : Ply) (m : PathMark) (s : State) : Keeps s (applyPathMark k m s) := by
  unfold applyPathMark; split
  · exact completeField_keeps ..
  · exact .after (raise_keeps ..) (markSerial_keeps ..)
  · split
    · exact .after (raise_keeps ..) (markSerial_keeps ..)
    · exact .refl s

theorem takeResponse_keeps (k : Ply) (r : Response) (s : State) : Keeps s (takeResponse k r s) := by
  unfold takeResponse; split
  · exact sendUp_keeps ..
  · exact .after (sendUp_keeps ..) (.after (.foldl (fun s m => applyPathMark_keeps k m s) _ _) (setFeeder_keeps ..))

theorem bindExpire_keeps (k : Ply) (s : State) : Keeps s (bindExpire k s) := by
  unfold bindExpire
  exact .after (raise_keeps ..) (blankPending_keeps s)

theorem takeHead_keeps (k : Ply) (s : State) : Keeps s (takeHead k s) := by
  unfold takeHead
  simp only
  split
  · exact .refl s
  · exact .after (takeResponse_keeps ..) (setFeeder_keeps ..)

theorem holdHead_keeps (k : Ply) (s : State) : Keeps s (holdHead k s) := by
  unfold holdHead
  simp only
  split
  · exact .after (bindExpire_keeps ..) (setFeeder_keeps ..)
  · exact setFeeder_keeps ..

theorem serveHead_keeps (k : Ply) (s : State) : Keeps s (serveHead k s) := by
  unfold serveHead; split
  · exact .refl s
  · split
    · exact holdHead_keeps ..
    · exact takeHead_keeps ..

theorem settleFor_keeps (n : Nat) (s : State) : Keeps s (settleFor n s) := by
  induction n generalizing s with
  | zero => exact .refl s
  | succ n ih =>
    unfold settleFor
    simp only
    split
    · exact .refl s
    · exact .after (ih _) (.after (serveHead_keeps ..) (.setFree _))

theorem settle_keeps (s : State) : Keeps s (settle s) := settleFor_keeps ..

theorem releaseHeads_keeps (s : State) : Keeps s (releaseHeads s) := by
  unfold releaseHeads
  exact .after (.foldl (fun s k => takeHead_keeps k s) _ _) (.setFree _)

theorem countAccess_keeps (k : Ply) (a : Access) (s : State) : Keeps s (countAccess k a s) := setFeeder_keeps ..

/-! ## The set pipeline -/

theorem deadlineCheck_keeps (t : Ticket) (s : State) : Keeps s (deadlineCheck t s) := by
  unfold deadlineCheck
  exact .after (raiseAll_keeps ..) (.setEntries _)

theorem decideSet_keeps (p : Policy) (e : SetEntry) (s : State) : Keeps s (decideSet p e s) := by
  unfold decideSet
  simp only
  split
  · exact .after (pushRecord_keeps ..) (.setSpoil id)
  · exact .after (pushRecord_keeps ..) (.setSpoil id)
  next h =>
    refine (Keeps.setSpoil fun _ => ?_).trans (pushRecord_keeps ..)
    unfold decisionOf at h
    repeat' split at h
    all_goals try cases h
    next h32 => simp [Config.remakeCapacity] at h32 ⊢; omega
  · exact .after (raise_keeps ..) (.after (pushRecord_keeps ..) (.setSpoil id))
  · exact .after (raise_keeps ..) (.after (pushRecord_keeps ..) (.setSpoil id))

theorem decideEntry_keeps (p : Policy) (e : Entry) (s : State) : Keeps s (decideEntry p e s) := by
  unfold decideEntry; split
  · exact decideSet_keeps ..
  · exact .setSpoil id

theorem drawForSet_keeps (t : Ticket) (s : State) : Keeps s (drawForSet t s).2.2 := by
  unfold drawForSet; split
  · exact .refl s
  · split
    · exact .setStreams _
    all_goals exact .refl s

theorem drawRequests_keeps (t : Ticket) (a : DrawAnswer) (s : State) : Keeps s (drawRequests t a s) := by
  unfold drawRequests; split
  · exact drawnRequests_keeps ..
  · exact uncoveredRequests_keeps ..
  all_goals exact .refl s

theorem countOpened_keeps (s : State) : Keeps s (countOpened s) := .setPipe _

theorem freshOpening_keeps (t : Ticket) (s : State) : Keeps s (freshOpening t s).2 := by
  have h := drawForSet_keeps t s
  unfold freshOpening
  dsimp only
  split
  · show Keeps s (drawRequests t .drawn (countOpened (drawForSet t s).2.2))
    exact .after (drawRequests_keeps ..) (.after (countOpened_keeps _) h)
  · exact h
  · show Keeps s (raise .storeFault 0 0 (drawRequests t .uncovered (drawForSet t s).2.2))
    exact .after (raise_keeps ..) (.after (drawRequests_keeps ..) h)
  · show Keeps s (claim .exhausted (drawForSet t s).2.2)
    exact .after (claim_keeps ..) h

theorem opening_keeps (t : Ticket) (s : State) : Keeps s (opening t s).2 := by
  unfold opening; split
  · split
    next h => exact .setSpoil fun hl => by simp [h] at hl ⊢; omega
    · exact freshOpening_keeps t s
  · exact .refl s

theorem replaceZero_keeps (e : Entry) (s : State) : Keeps s (replaceZero e s) := .setEntries _

theorem resolvePending_keeps (s : State) : Keeps s (resolvePending s) := by
  unfold resolvePending
  split
  · split
    · next t _ _ _ _ _ _ =>
      have h := drawForSet_keeps t s
      simp only
      split
      · exact .after (drawRequests_keeps ..) (.after (replaceZero_keeps ..) (.after (countOpened_keeps _) (h)))
      · exact h
      · exact .after (raise_keeps ..) (.after (drawRequests_keeps ..) (.after (blankPending_keeps _) (h)))
      · exact .after (claim_keeps ..) (.after (blankPending_keeps _) (h))
    · exact .refl s
  · exact .refl s

theorem closingChecks_keeps (t : Ticket) (first : List (FaultKind × BitVec 3 × Word)) (s : State) :
    Keeps s (closingChecks t first s) := by
  unfold closingChecks
  simp only
  split
  · exact .after (releaseHeads_keeps _) (.after (blankPending_keeps _) (.after (raiseAll_keeps ..) (.setEntries _)))
  · exact .after (raiseAll_keeps ..) (.setEntries _)

theorem shiftAndDecide_keeps (t : Ticket) (s : State) : Keeps s (shiftAndDecide t s) := by
  unfold shiftAndDecide; split
  · exact .after (decideEntry_keeps ..) (.setEntries _)
  · exact .refl s

theorem openNew_keeps (t : Ticket) (s : State) : Keeps s (openNew t s) := by
  unfold openNew
  exact .after (.setEntries _) (opening_keeps t s)

theorem spliceStep_keeps (s : State) (k : Ply) : Keeps s (spliceStep s k) := by
  unfold spliceStep
  simp only
  split
  · split
    · exact .refl s
    · exact .after (markAt_keeps ..) (.setSpoil id)
  · exact .refl s

theorem drainedNotice_keeps (s : State) : Keeps s (drainedNotice s) := by
  unfold drainedNotice; split
  · exact claim_keeps ..
  · exact .refl s

theorem pitchOperation_keeps (t : Ticket) (first : List (FaultKind × BitVec 3 × Word)) (s : State) :
    Keeps s (pitchOperation t first s) := by
  unfold pitchOperation
  exact .after (endOperation_keeps _) (.after (drainedNotice_keeps _) (.after (.foldl spliceStep_keeps _ _)
    (.after (openNew_keeps t _) (.after (shiftAndDecide_keeps t _) (.after (closingChecks_keeps t first _)
      (.after (.setCtl _) (.setPipe _)))))))

theorem clearEncoder_keeps (s : State) : Keeps s (clearEncoder s) := .setTimer _

theorem countMakeReady_keeps (s : State) : Keeps s (countMakeReady s) := .setTimer _

theorem pitch_keeps (first : List (FaultKind × BitVec 3 × Word)) (s : State) : Keeps s (pitch first s) := by
  unfold pitch
  refine (clearEncoder_keeps s).trans ?_
  simp only
  split
  · exact .after (raiseAll_keeps ..) (countMakeReady_keeps _)
  · exact .after (raiseAll_keeps ..) (countMakeReady_keeps _)
  · exact raiseAll_keeps ..
  · split
    · exact .after (settle_keeps _) (pitchOperation_keeps ..)
    · exact .refl _

/-! ## Lines -/

theorem powerActive_keeps (s : State) : Keeps s (powerActive s) := by
  have h : Keeps s (raise .powerWarn 0 0 (s.setLines { s.lines with pwrwarn := true })) :=
    Keeps.after (raise_keeps ..) (.setLines id)
  unfold powerActive
  simp only
  split
  · exact h
  · exact h.trans (.setStore rfl id)

theorem powerInactive_keeps (s : State) : Keeps s (powerInactive s) := by
  have h : Keeps s (s.setLines { s.lines with pwrwarn := false }) := .setLines id
  unfold powerInactive
  simp only
  split
  · exact .after (endRecovery_keeps _) (.after (.setStore rfl id) (h))
  · exact h

theorem holdreqTo_keeps (a : Bool) (s : State) : Keeps s (holdreqTo a s) := by
  have h : Keeps s (s.setLines { s.lines with holdreq := a }) := .setLines id
  unfold holdreqTo
  simp only
  split
  · exact .after (holdTest_keeps _) (h)
  · exact h

theorem setSettings_keeps (t : Option Ticket) (s : State) : Keeps s (setSettings t s) := by
  have h : Keeps s ((s.setTicket { s.ticket with active := t }).setLines
      { s.lines with runs := List.replicate 18 0 }) :=
    .after (.setLines fun _ => by simp) (.setTicket rfl)
  have h2 : ∀ (b : Bool) (f : State → State) (u : State), (∀ u, Keeps u (f u)) → Keeps u (if b then f u else u) := by
    intro b f u hf
    cases b
    · exact .refl u
    · exact hf u
  unfold setSettings
  simp only
  split <;> split <;> (try split)
  all_goals first
    | exact .after (powerActive_keeps _) (.after (holdreqTo_keeps ..) (h))
    | exact .after (powerInactive_keeps _) (.after (holdreqTo_keeps ..) (h))
    | exact .after (holdreqTo_keeps ..) (h)
    | exact .after (powerActive_keeps _) (h)
    | exact .after (powerInactive_keeps _) (h)
    | exact h

theorem sampleInput_runs (st : LineSetting) (levels : BitVec 18) (n : Fin 18) (m : LineMonitor) :
    (sampleInput st levels n m).runs.length = m.runs.length := by
  unfold sampleInput
  simp only
  split
  · split <;> simp
  · split <;> simp

theorem sampleAll_runs (f : Fin 18 → LineSetting) (levels : BitVec 18) (ns : List (Fin 18)) (m : LineMonitor) :
    (ns.foldl (fun m n => sampleInput (f n) levels n m) m).runs.length = m.runs.length := by
  induction ns generalizing m with
  | nil => rfl
  | cons n ns ih => rw [List.foldl_cons, ih, sampleInput_runs]

theorem sampleLines_keeps (levels : BitVec 18) (s : State) : Keeps s (sampleLines levels s) := by
  unfold sampleLines; split
  · exact .setLines fun h => by rw [sampleAll_runs]; exact h
  · exact .setLines id

theorem acceptLevel_keeps (n : Fin 18) (b : Bool) (s : State) : Keeps s (acceptLevel n b s) :=
  .setLines fun h => by simpa using h

theorem takeEdge_keeps {n : Fin 18} {s t : State} (h : takeEdge n s = some t) : Keeps s t := by
  unfold takeEdge at h
  repeat' split at h
  all_goals first | (cases h; first | exact .setLines id | exact acceptLevel_keeps ..) | cases h

theorem takeLevel_keeps (n : Fin 18) (a : Bool) (s : State) : Keeps s (takeLevel n a s) := by
  unfold takeLevel; split
  · exact .refl s
  · exact acceptLevel_keeps ..

theorem spliceTaken_keeps (k : Ply) (s : State) : Keeps s (spliceTaken k s) := by
  unfold spliceTaken
  split
  · split
    · exact .after (settle_keeps _) (.after (raise_keeps ..) (.after (.setSpoil id) (markAt_keeps ..)))
    · exact .refl s
  · exact .refl s

/-! ## Notices and the end of CLOSE -/

theorem answer_keeps (code tag : Byte) (r : ResultCode) (check : BitVec 3) (detail : Word) (s : State) :
    Keeps s (answer code tag r check detail s) := .setTicket rfl

theorem endPending_keeps (r : ResultCode) (detail : Word) (s : State) : Keeps s (endPending r detail s) := by
  unfold endPending; split
  · exact .setTicket rfl
  · exact .refl s

theorem closeEnd_keeps (s : State) : Keeps s (closeEnd s) := by
  unfold closeEnd
  simp only
  split
  all_goals
    exact .after (setSettings_keeps ..) (.after (.setLines id) (.after (.setTimer _) (.after (.setPath rfl)
      (.after (.setTally _) (.after (.setSpoil id) (.after (.setPipe _) (.after (.setStreams _) (.after (.setCtl _)
        (endPending_keeps ..)))))))))

theorem closeIfDone_keeps (s : State) : Keeps s (closeIfDone s) := by
  unfold closeIfDone; split
  · split
    · exact closeEnd_keeps s
    · exact .refl s
  · exact .refl s

theorem chooseNext_keeps (s : State) : Keeps s (chooseNext s) := choose_keeps closeIfDone_keeps s

theorem chooseIfLeft_keeps (s t : State) : Keeps t (chooseIfLeft s t) := by
  unfold chooseIfLeft; split
  · exact chooseNext_keeps t
  · exact .refl t

theorem streamCompleted_keeps (i : StreamId) (s : State) : Keeps s (streamCompleted i s) := by
  unfold streamCompleted
  simp only
  split
  · split
    · exact .after (resolvePending_keeps _) (setStream_keeps ..)
    · exact .after (resolvePending_keeps _) (.after (testRenewal_keeps ..) (setStream_keeps ..))
  · exact setStream_keeps ..

theorem streamFailed_keeps (i : StreamId) (s : State) : Keeps s (streamFailed i s) := by
  unfold streamFailed
  exact .after (resolvePending_keeps _) (setStream_keeps ..)

theorem noteFailedClose_keeps (i : StreamId) (s : State) : Keeps s (noteFailedClose i s) := by
  unfold noteFailedClose; split
  · exact .setTicket rfl
  · exact .refl s

theorem closeFailed_keeps (i : StreamId) (book : Word) (s : State) : Keeps s (closeFailed i book s) := by
  unfold closeFailed
  exact .after (noteFailedClose_keeps ..) (.setStore rfl id)

theorem completionNotice_keeps (r : Request) (s : State) : Keeps s (completionNotice r s) := by
  unfold completionNotice; split
  · exact streamCompleted_keeps ..
  · exact closeIfDone_keeps s
  · exact .refl s
  · exact endPending_keeps ..

theorem failureNotice_keeps (r : Request) (s : State) : Keeps s (failureNotice r s) := by
  unfold failureNotice; split
  · exact streamFailed_keeps ..
  · exact .after (closeIfDone_keeps _) (closeFailed_keeps ..)
  · exact .refl s
  · exact endPending_keeps ..

theorem removeAll_keeps (l : List Request) (s : State) (hl : l.length ≤ 40) : Keeps s (removeAll l s) := by
  induction l generalizing s with
  | nil => exact .setStore rfl fun _ => by simp
  | cons r rest ih =>
    have hr : rest.length ≤ 40 := by simp at hl; omega
    exact .after (ih _ hr) (.after (failureNotice_keeps ..) (.setStore rfl fun _ => hr))

/-- The same whatever the queue held. -/
theorem removeAll_frame (l : List Request) (s : State) :
    (removeAll l s).pending = s.pending ∧ (removeAll l s).resetting = s.resetting ∧
    (removeAll l s).store.array = s.store.array ∧ (removeAll l s).path.wbase = s.path.wbase ∧
    (removeAll l s).ticket.staged.length = s.ticket.staged.length ∧
    (s.report.slots.length = 16 → (removeAll l s).report.slots.length = 16) ∧
    (s.lines.runs.length = 18 → (removeAll l s).lines.runs.length = 18) ∧
    (s.spoil.remakes.length ≤ 32 → (removeAll l s).spoil.remakes.length ≤ 32) ∧
    (removeAll l s).store.queue.length ≤ 40 := by
  induction l generalizing s with
  | nil => exact ⟨rfl, rfl, rfl, rfl, rfl, id, id, id, by simp [removeAll]⟩
  | cons r rest ih =>
    have h := failureNotice_keeps r (s.setStore { s.store with queue := rest })
    obtain ⟨a, b, c, d, e, f, g, i, j⟩ := ih (failureNotice r (s.setStore { s.store with queue := rest }))
    exact ⟨a.trans h.pending, b.trans h.resetting, c.trans h.array, d.trans h.wbase, e.trans h.staged,
      fun x => f (h.slots x), fun x => g (h.runs x), fun x => i (h.remakes x), j⟩

theorem removed_keeps (l : List Request) (s : State) : Keeps s (removeAll l s) := by
  obtain ⟨a, b, c, d, e, f, g, i, j⟩ := removeAll_frame l s
  exact ⟨a, b, c, d, e, f, g, i, fun _ => j⟩

theorem becomeFailed_keeps (c : FailCause) (s : State) : Keeps s (becomeFailed c s) := by
  unfold becomeFailed
  exact .after (raise_keeps ..) (.after (removed_keeps ..) (.setStore rfl id))

/-! ## Commands -/

theorem stageWord_keeps (a : Addr) (w : WordWrite) (s : State) : Keeps s (stageWord a w s) := by
  unfold stageWord; split
  · exact .setTicket (by simp)
  · exact .setTicket rfl
  · exact .setTicket rfl
  · exact .refl s
  · exact .refl s

theorem stageWords_keeps (a : Addr) (ws : List WordWrite) (s : State) : Keeps s (stageWords a ws s) := by
  induction ws generalizing a s with
  | nil => exact .refl s
  | cons w ws ih => exact .after (ih ..) (stageWord_keeps ..)

theorem acceptLoad_keeps (s : State) : Keeps s (acceptLoad s) :=
  ((((((((Keeps.setStreams _).trans (.setPipe _)).trans (.setTally _)).trans (.setSpoil fun _ => by simp)).trans
    (clearEncoder_keeps _)).trans (.setCtl _)).trans (setSettings_keeps ..)).trans (chooseIfLeft_keeps ..))

theorem loadCommand_keeps (tag : Byte) (s : State) : Keeps s (loadCommand tag s) := by
  unfold loadCommand; split
  · exact answer_keeps ..
  · split
    · exact answer_keeps ..
    · exact .after (answer_keeps ..) (acceptLoad_keeps s)

theorem acceptStart_keeps (s : State) : Keeps s (acceptStart s) := by
  unfold acceptStart
  simp only
  have h : Keeps s (clearEncoder ((s.setEntries (List.replicate (gateDistOf s) .blank)).setJob .run)) :=
    .after (clearEncoder_keeps _) (.after (.setJob _) (.setEntries _))
  split
  · exact .after (holdTest_keeps _) (.after (startReservations_keeps ..) (h))
  · exact .after (holdTest_keeps _) (h)

theorem startCommand_keeps (tag : Byte) (s : State) : Keeps s (startCommand tag s) := by
  unfold startCommand; split
  · exact answer_keeps ..
  · split
    · exact answer_keeps ..
    · split
      · exact answer_keeps ..
      · split
        · exact answer_keeps ..
        · exact .after (answer_keeps ..) (acceptStart_keeps s)

theorem stopCommand_keeps (tag : Byte) (s : State) : Keeps s (stopCommand tag s) := by
  unfold stopCommand; split
  · exact .after (settle_keeps _) (.after (answer_keeps ..) (enterDrain_keeps s))
  · exact .after (settle_keeps _) (.after (answer_keeps ..) (.after (enterDrain_keeps _) (.setCtl _)))
  · exact .after (settle_keeps _) (.after (answer_keeps ..) (.after (enterDrain_keeps _) (.setCtl _)))
  · exact answer_keeps ..
  · exact answer_keeps ..

theorem holdCommand_keeps (tag : Byte) (s : State) : Keeps s (holdCommand tag s) := by
  unfold holdCommand; split
  · exact .after (settle_keeps _) (.after (answer_keeps ..) (.after (enterHold_keeps _) (.setCtl _)))
  · exact answer_keeps ..
  · exact answer_keeps ..

theorem resumeCommand_keeps (tag : Byte) (s : State) : Keeps s (resumeCommand tag s) := by
  unfold resumeCommand; split
  · exact answer_keeps ..
  · split
    · exact answer_keeps ..
    · split
      · exact answer_keeps ..
      · exact .after (answer_keeps ..) (.after (holdTest_keeps _) (.after (.setJob _) (.setCtl _)))

theorem abortEntry_keeps (s : State) (e : Entry) : Keeps s (abortEntry s e) := by
  unfold abortEntry; split
  · exact .after (pushRecord_keeps ..) (.setSpoil id)
  · exact .refl s

theorem acceptAbort_keeps (s : State) : Keeps s (acceptAbort s) := by
  unfold acceptAbort
  exact .after (enterReady_keeps _) (.after (.foldl abortEntry_keeps _ _) (blankPending_keeps s))

theorem abortCommand_keeps (tag : Byte) (s : State) : Keeps s (abortCommand tag s) := by
  unfold abortCommand; split
  · exact .after (settle_keeps _) (.after (answer_keeps ..) (acceptAbort_keeps s))
  · exact answer_keeps ..

theorem unmadeEntry_keeps (s : State) (x : RemakeEntry) : Keeps s (unmadeEntry s x) := by
  unfold unmadeEntry
  exact .after (pushRecord_keeps ..) (.setSpoil id)

theorem closeRemakes_keeps (s : State) : Keeps s (closeRemakes s) := by
  unfold closeRemakes
  exact .after (.foldl unmadeEntry_keeps _ _) (.setSpoil fun _ => by simp)

theorem askClose_keeps (t : Ticket) {told : State → State} (h : ∀ s, Keeps s (told s)) (i : StreamId) (s : State) :
    Keeps s (askClose t told i s) := by
  unfold askClose
  dsimp only
  split
  · exact .after (h _) (closeFailed_keeps ..)
  next k => exact joinTelling_keeps h _ (by simpa using k)

theorem askCloses_keeps (t : Ticket) (l : List StreamId) (s : State) : Keeps s (askCloses t l s) := by
  induction l generalizing s with
  | nil => exact closeIfDone_keeps s
  | cons i l ih =>
    cases l with
    | nil => exact askClose_keeps t closeIfDone_keeps i s
    | cons j rest => exact .after (ih _) (askClose_keeps t .refl i s)

theorem acceptClose_keeps (tag : Byte) (s : State) : Keeps s (acceptClose tag s) := by
  unfold acceptClose
  refine .after (chooseIfLeft_keeps ..) ?_
  simp only
  split
  · exact .after (askCloses_keeps ..) (.after (pushRecords_keeps ..)
      (.after (closeRemakes_keeps _) (.after (.setTicket rfl) (.after (answer_keeps ..) (.setJob _)))))
  · exact .after (closeIfDone_keeps _)
      (.after (closeRemakes_keeps _) (.after (.setTicket rfl) (.after (answer_keeps ..) (.setJob _))))

theorem closeCommand_keeps (tag : Byte) (s : State) : Keeps s (closeCommand tag s) := by
  unfold closeCommand; split
  · exact answer_keeps ..
  · split
    · exact answer_keeps ..
    · exact acceptClose_keeps ..

theorem spoilCommand_keeps (tag : Byte) (s : State) : Keeps s (spoilCommand tag s) := by
  unfold spoilCommand
  simp only
  split
  · exact answer_keeps ..
  · split
    · exact answer_keeps ..
    · split
      · exact .after (settle_keeps _) (.after (answer_keeps ..) (.after (raise_keeps ..) (markAt_keeps ..)))
      · exact answer_keeps ..

theorem retireCommand_keeps (tag : Byte) (s : State) : Keeps s (retireCommand tag s) := by
  unfold retireCommand
  simp only
  repeat' split
  all_goals first
    | exact answer_keeps ..
    | (next h => exact .after (joinQueue_keeps _ (by simpa [answer] using h)) (.after (.setTicket rfl) (answer_keeps ..)))

theorem commandOf_keeps (code tag : Byte) (s : State) : Keeps s (commandOf code tag s) := by
  unfold commandOf
  repeat' split
  · exact loadCommand_keeps ..
  · exact startCommand_keeps ..
  · exact stopCommand_keeps ..
  · exact holdCommand_keeps ..
  · exact resumeCommand_keeps ..
  · exact abortCommand_keeps ..
  · exact closeCommand_keeps ..
  · exact spoilCommand_keeps ..
  · exact retireCommand_keeps ..
  · exact .after (answer_keeps ..) (.setReport id)
  · unfold clearHistoryCommand
    exact .after (answer_keeps ..) (.setReport fun _ => by simp)
  · exact answer_keeps ..

end Sys2Proof.Machine
end

