-- ==== Sys2Proof/Laws/Commands.lean ====
section
/-! SUPPORT. Laws/Commands.lean: where the words of a command stand in the window (R150), and the state a command is taken
in: a full write of the command word is its command's rule on `arrived` (R162, R163). -/

namespace Sys2Proof.Machine

open Sys2Proof.Safety

theorem windowOffset_at (wb : Byte) (off : Nat) (h : off < 0x100000) :
    windowOffset wb (windowBase wb + BitVec.ofNat 28 off) = some off := by
  unfold windowOffset windowBase
  have hw := wb.isLt
  have : (BitVec.ofNat 28 (wb.toNat * 0x100000) + BitVec.ofNat 28 off).toNat = wb.toNat * 0x100000 + off := by
    rw [BitVec.toNat_add, BitVec.toNat_ofNat, BitVec.toNat_ofNat]
    omega
  rw [this, if_pos (by omega)]
  congr 1
  omega

theorem ticketPlace_of {wb : Byte} {a : Addr} {off : Nat} (h : off < 0x8000) (ha : windowOffset wb a = some off) :
    ticketPlace wb a =
      if off < 0x200 then .staged (off / 4) else if off = 0x400 then .command else if off = 0x404 then .arg1
      else if off = 0x408 then .arg2 else .notTaken := by
  have hr : regionOf wb a = .ticketArea off := by
    unfold regionOf
    simp only [ha, h, if_true]
  unfold ticketPlace
  simp only [hr]

theorem place_command (wb : Byte) : ticketPlace wb (windowBase wb + 0x400#28) = .command := by
  generalize h : windowBase wb + 0x400#28 = a
  have := windowOffset_at wb 0x400 (by norm_num)
  rw [ticketPlace_of (off := 0x400) (by norm_num) (by rw [← h]; exact this)]
  norm_num

theorem place_arg1 (wb : Byte) : ticketPlace wb (windowBase wb + 0x400#28 + 4#28) = .arg1 := by
  rw [BitVec.add_assoc]
  generalize h : windowBase wb + _ = a
  have := windowOffset_at wb 0x404 (by norm_num)
  rw [ticketPlace_of (off := 0x404) (by norm_num) (by rw [← h]; exact this)]
  norm_num

theorem place_arg2 (wb : Byte) : ticketPlace wb (windowBase wb + 0x400#28 + 4#28 + 4#28) = .arg2 := by
  rw [BitVec.add_assoc, BitVec.add_assoc]
  generalize h : windowBase wb + _ = a
  have := windowOffset_at wb 0x408 (by norm_num)
  rw [ticketPlace_of (off := 0x408) (by norm_num) (by rw [← h]; exact this)]
  norm_num

theorem stageWords_burst {a : Addr} {s : State} (h0 : ticketPlace s.path.wbase a = .command)
    (h1 : ticketPlace s.path.wbase (a + 4) = .arg1) (h2 : ticketPlace s.path.wbase (a + 4 + 4) = .arg2) (c : WordWrite)
    {a1 a2 : Option WordWrite} (h : argsOk a1 a2 = true) :
    stageWords a (commandBurst c a1 a2) s =
      { s with ticket := { s.ticket with arg1 := shadow s.ticket.arg1 a1, arg2 := shadow s.ticket.arg2 a2 } } := by
  have e0 : ∀ w u, u.path.wbase = s.path.wbase → stageWord a w u = u := by
    intro w u e; unfold stageWord; rw [e, h0]
  have e1 : ∀ w u, u.path.wbase = s.path.wbase →
      stageWord (a + 4) w u = u.setTicket { u.ticket with arg1 := mergeBytes u.ticket.arg1 w } := by
    intro w u e; unfold stageWord; rw [e, h1]
  have e2 : ∀ w u, u.path.wbase = s.path.wbase →
      stageWord (a + 4 + 4) w u = u.setTicket { u.ticket with arg2 := mergeBytes u.ticket.arg2 w } := by
    intro w u e; unfold stageWord; rw [e, h2]
  cases a1 with
  | none =>
    cases a2 with
    | none => exact e0 c s rfl
    | some _ => cases h
  | some w1 =>
    cases a2 with
    | none =>
      show stageWord (a + 4) w1 (stageWord a c s) = _
      rw [e0 c s rfl, e1 w1 s rfl]; rfl
    | some w2 =>
      show stageWord (a + 4 + 4) w2 (stageWord (a + 4) w1 (stageWord a c s)) = _
      rw [e0 c s rfl, e1 w1 s rfl]; exact e2 w2 _ rfl

theorem commandAddr_places (s : State) :
    ticketPlace s.path.wbase (commandAddr s) = .command ∧ ticketPlace s.path.wbase (commandAddr s + 4) = .arg1 ∧
      ticketPlace s.path.wbase (commandAddr s + 4 + 4) = .arg2 :=
  ⟨place_command _, place_arg1 _, place_arg2 _⟩

theorem stage_arrived (code : Byte) (w : CommandWrite) (s : State) (h : w.wf = true) :
    stageWords (commandAddr s) (commandBurst (CommandWrite.word code w) w.arg1 w.arg2)
      (passDown controllerId (commandAccess code w s) (begin s)) = arrived code w s := by
  obtain ⟨h0, h1, h2⟩ := commandAddr_places s
  exact stageWords_burst (s := passDown controllerId (commandAccess code w s) (begin s)) h0 h1 h2 _ h

theorem writeCommand_arrived (code : Byte) (f : Byte → State → State) (w : CommandWrite) (s : State) (h : w.wf = true)
    (hr : s.resetting = false) :
    writeCommand code f w (begin s) = takeCommand code w.tag f (arrived code w s) := by
  unfold writeCommand
  dsimp only
  rw [if_neg (by simp [passDown, begin, State.setBus, hr])]
  exact congrArg _ (stage_arrived code w s h)

theorem command_taken (code : Byte) (f : Byte → State → State) (w : CommandWrite) (s : State) (h : Takes w s) :
    writeCommand code f w (begin s) = f w.tag (arrived code w s) := by
  rw [writeCommand_arrived _ _ _ _ h.1 h.2.1, takeCommand]
  have : (arrived code w s).ticket.waiting = none := h.2.2
  rw [this]
theorem fullWrite_exec (code : Byte) (w : CommandWrite) (s : State) :
    exec (fullWrite code w) s = .next (writeCommand code (commandOf code) w (begin s)) := by
  unfold fullWrite commandOf
  by_cases c1 : code = 1
  · subst c1; rfl
  by_cases c1 : code = 2
  · subst c1; rfl
  by_cases c1 : code = 3
  · subst c1; rfl
  by_cases c1 : code = 4
  · subst c1; rfl
  by_cases c1 : code = 5
  · subst c1; rfl
  by_cases c1 : code = 6
  · subst c1; rfl
  by_cases c1 : code = 7
  · subst c1; rfl
  by_cases c1 : code = 8
  · subst c1; rfl
  by_cases c1 : code = 9
  · subst c1; rfl
  by_cases c1 : code = 10
  · subst c1; rfl
  by_cases c1 : code = 11
  · subst c1; rfl
  simp only [*, if_false]
  unfold exec execUnknownCommand commandOf
  simp only [*, if_false]
theorem blankPending_eq (s : State) : blankPending s = { s with pipe := blanked s.pipe } := by
  unfold blankPending pendingAtZero blanked entryAt
  cases h : s.pipe.entries with
  | nil => simp [Entry.isPending]
  | cons e es =>
    cases e <;> simp [Entry.isPending, State.setPipe]
end Sys2Proof.Machine
end

