-- ==== Sys2Proof/Laws/Fields.lean ====
section
/-! SUPPORT. Laws/Fields.lean: what the rendering of a response and the requests of the streams do: a response is rendered
part by part (R60, R64), a busy store only queues (R134), and a first response leaves by being taken (R68). -/

namespace Sys2Proof.Machine

open Sys2Proof.Safety

/-! ## Rendering -/

theorem wordAddr_zero (a : Addr) : wordAddr a 0 = a := by simp [wordAddr]

theorem wordAddr_succ (a : Addr) (n : Nat) : wordAddr (a + 4#28) n = wordAddr a (n + 1) := by
  unfold wordAddr
  rw [show 4 * (n + 1) = 4 + 4 * n by ring, BitVec.ofNat_add, BitVec.add_assoc]

/-- The words returned are as many as the words read. -/
theorem renderWords_length (s : State) (k : Ply) (a : Addr) (o : Option OpenField) (ws : List Word) :
    (renderWords s k a o ws).1.length = ws.length := by
  induction ws generalizing a o with
  | nil => rfl
  | cons w ws ih => simp [renderWords, ih]

/-- A response is rendered as its parts are, the second with the field the first leaves open (R60). -/
theorem renderWords_append (s : State) (k : Ply) (a : Addr) (o : Option OpenField) (ws vs : List Word) :
    renderWords s k a o (ws ++ vs) =
      ((renderWords s k a o ws).1 ++ (renderWords s k (wordAddr a ws.length) (renderWords s k a o ws).2.2 vs).1,
       (renderWords s k a o ws).2.1 ++ (renderWords s k (wordAddr a ws.length) (renderWords s k a o ws).2.2 vs).2.1,
       (renderWords s k (wordAddr a ws.length) (renderWords s k a o ws).2.2 vs).2.2) := by
  induction ws generalizing a o with
  | nil => simp [renderWords, wordAddr_zero]
  | cons w ws ih => simp [renderWords, ih, wordAddr_succ, List.append_assoc]

/-- The first response of a feeder's order leaves by being taken (R68, R50). -/
theorem takeHead_of_head {s : State} {k : Ply} {r : Response} (h : (feeder s k).queue.head? = some r) :
    takeHead k s = takeResponse k r (headGone k s) := by
  unfold takeHead headGone setFeeder State.setPath
  match hq : (feeder s k).queue, h with
  | x :: rest, h => cases h; simp [hq]

/-! ## Requests -/

/-- A store that may start nothing chooses nothing (R134). -/
theorem choose_of_not_mayStart {told : State → State} {s : State} (h : mayStart s.store = false) : choose told s = s := by
  simp [choose, chooseFrom, h]

/-- A request that reaches a store that may start nothing only joins the queue (R133). -/
theorem joinQueue_of_not_mayStart {r : Request} {s : State} (h : mayStart s.store = false) :
    joinQueue r s = { s with store := { s.store with queue := s.store.queue ++ [r] } } :=
  choose_of_not_mayStart (told := id) h

/-- While an operation is in flight the store may start nothing (R134). -/
theorem mayStart_of_op {st : Store} {o : Operation} (h : st.op = some o) : mayStart st = false := by
  simp [mayStart, h]

end Sys2Proof.Machine
end

