-- ==== Sys2Proof/Laws/Load.lean ====
section
/-! SUPPORT. Laws/Load.lean: the checks of LOAD (R156 to R158) in the words of the statements: the sum, the out-of-range
words, the ticket's own checks, and what a ticket that passes them is answered. -/

namespace Sys2Proof.Machine

open Sys2Proof.Safety

theorem field_bits (w : Word) (hi lo : Nat) : field w hi lo = bits w hi lo := by
  unfold field bits
  rw [BitVec.extractLsb'_toNat, Nat.shiftRight_eq_div_pow]

theorem flag_bits (w : Word) : flag w 0 = true ↔ bits w 0 0 = 1 := by
  rw [← field_bits]
  unfold flag
  rw [BitVec.getLsbD, Nat.testBit_zero]
  simp [field]

theorem ticketSum_eq (ws : List Word) : ticketSum ws = wordSum ws := by
  have h : ∀ (ws : List Word) (a : Word), ws.foldl (· + ·) a = a + BitVec.ofNat 32 (ws.map (·.toNat)).sum := by
    intro ws
    induction ws with
    | nil => intro a; simp
    | cons w ws ih =>
      intro a
      rw [List.foldl_cons, ih, List.map_cons, List.sum_cons, BitVec.ofNat_add, BitVec.ofNat_toNat, BitVec.setWidth_eq,
        BitVec.add_assoc]
  unfold ticketSum wordSum
  rw [h]
  simp

theorem badHeader1_iff (w : Word) : badHeader1 w = true ↔ HeaderOut w := by
  simp [badHeader1, field_bits, or_assoc, Nat.lt_iff_add_one_le]

theorem badHeader2_iff (w : Word) : badHeader2 w = true ↔ LengthOut w := by
  simp [badHeader2, field_bits, or_assoc, Nat.lt_succ_iff]

theorem stepOf_bad (n : Nat) (h : n < 32) : (stepOf n = 0 ∨ stepOf n = -16) ↔ (n = 0 ∨ n = 16) := by
  interval_cases n <;> decide

theorem badStream0_iff (w : Word) : badStream0 w = true ↔ StreamOut w := by
  have h : bits w 20 16 < 32 := BitVec.isLt _
  have := stepOf_bad _ h
  simp [badStream0, field_bits, flag_bits, this]

theorem badStream1_iff (w v : Word) : badStream1 w v = true ↔ RepeatOut w v := by
  simp [badStream1, field_bits, flag_bits, and_assoc]

theorem badPly_iff (w : Word) : badPly w = true ↔ PlyOut w := by
  simp [badPly, field_bits, flag_bits, or_assoc, Nat.lt_iff_add_one_le]

/-- The tested words that fail are the words out of range. -/
theorem outOfRange_iff (ws : List Word) (n : Nat) : (n, true) ∈ rangeTests ws ↔ OutOfRange ws n := by
  unfold rangeTests OutOfRange
  simp only [List.mem_append, List.mem_cons, List.not_mem_nil, or_false, Prod.mk.injEq, List.mem_flatten, List.mem_map,
    @eq_comm _ true, badHeader1_iff, badHeader2_iff]
  constructor
  · rintro (((⟨rfl, h⟩ | ⟨rfl, h⟩) | ⟨l, ⟨i, -, rfl⟩, hl⟩) | ⟨k, -, rfl, h⟩)
    · exact .inl ⟨rfl, h⟩
    · exact .inr (.inl ⟨rfl, h⟩)
    · simp only [List.mem_cons, List.not_mem_nil, or_false, Prod.mk.injEq, @eq_comm _ true, badStream0_iff,
        badStream1_iff] at hl
      rcases hl with ⟨rfl, h⟩ | ⟨rfl, h⟩
      · exact .inr (.inr (.inl ⟨i, rfl, h⟩))
      · exact .inr (.inr (.inr (.inl ⟨i, rfl, h⟩)))
    · exact .inr (.inr (.inr (.inr ⟨k, rfl, (badPly_iff _).1 h⟩)))
  · rintro (⟨rfl, h⟩ | ⟨rfl, h⟩ | ⟨i, rfl, h⟩ | ⟨i, rfl, h⟩ | ⟨k, rfl, h⟩)
    · exact .inl (.inl (.inl ⟨rfl, h⟩))
    · exact .inl (.inl (.inr ⟨rfl, h⟩))
    · exact .inl (.inr ⟨_, ⟨i, by fin_cases i <;> decide, rfl⟩, by simpa [@eq_comm _ true, badStream0_iff] using h⟩)
    · exact .inl (.inr ⟨_, ⟨i, by fin_cases i <;> decide, rfl⟩, by simpa [@eq_comm _ true, badStream1_iff] using h⟩)
    · exact .inr ⟨k, by fin_cases k <;> decide, rfl, (badPly_iff _).2 h⟩

theorem tallyStreamMissing_iff (t : Ticket) (k : Ply) : tallyStreamMissing t k = true ↔ TallyStreamInactive t k := by
  simp [tallyStreamMissing, and_assoc]

theorem runDisagrees_iff (t : Ticket) (i : StreamId) : runDisagrees t i = true ↔ RunAgainstStep t i := by
  unfold runDisagrees
  by_cases h : 0 < (t.streams.get i).step <;> simp [h, and_assoc]

theorem mayNotBook_iff (t : Ticket) (i : StreamId) : mayNotBook t i = true ↔ BookNotAllowed t i := by
  simp [mayNotBook, and_assoc]

/-- A ticket that passes the first six checks is judged by the seventh (R155, R159). -/
theorem loadCheck_of_passesSix (ws : List Word) (st : Store) (h : PassesSix ws) :
    loadCheck ws st = bookCheck (ticketOf ws) st := by
  obtain ⟨h1, h2, ⟨k, h3⟩, h4, h5, h6⟩ := h
  have e2 : (rangeTests ws).find? (·.2) = none := by
    rw [List.find?_eq_none]
    rintro ⟨n, b⟩ hm hb
    simp only at hb
    subst hb
    exact h2 n ((outOfRange_iff ws n).1 hm)
  have e3 : ((ticketOf ws).plies.toList.all fun p => !p.enabled) = false := by
    rw [List.all_eq_false]
    exact ⟨(ticketOf ws).plies.get k, by fin_cases k <;> simp [Six.toList, Six.get], by simp [h3]⟩
  have e4 : plies.find? (tallyStreamMissing (ticketOf ws)) = none := by
    rw [List.find?_eq_none]
    exact fun k _ hk => h4 k ((tallyStreamMissing_iff _ k).1 hk)
  have e5 : fours.find? (runDisagrees (ticketOf ws)) = none := by
    rw [List.find?_eq_none]
    exact fun i _ hi => h5 i ((runDisagrees_iff _ i).1 hi)
  have e6 : fours.find? (mayNotBook (ticketOf ws)) = none := by
    rw [List.find?_eq_none]
    exact fun i _ hi => h6 i ((mayNotBook_iff _ i).1 hi)
  unfold loadCheck
  simp [ticketSum_eq, h1, e2, e3, e4, e5, e6]

end Sys2Proof.Machine
end

