-- ==== Sys2Proof/Laws/Shape.lean ====
section
/-! SUPPORT. Laws/Shape.lean: what the operations do to the job state and the pipeline's shape (R24, R31, R40): inside a
pitch operation they leave both alone, their claims put off; outside they keep `Settled` and `PipelineShape`. -/

namespace Sys2Proof.Machine

open Sys2Proof.Safety

/-- Which entries are PENDING, by position. -/
def pends (s : State) : List Bool := s.pipe.entries.map Entry.isPending

theorem pends_length (s : State) : (pends s).length = s.pipe.entries.length := by simp [pends]

theorem pendingAtZero_eq (s : State) : pendingAtZero s = (pends s).headD false := by
  unfold pendingAtZero entryAt pends
  cases s.pipe.entries <;> rfl

theorem behind_iff (s : State) :
    (∀ e ∈ s.pipe.entries.tail, e.isPending = false) ↔ ∀ b ∈ (pends s).tail, b = false := by
  unfold pends
  cases s.pipe.entries <;> simp

/-- The shape and the job state are the same, and a pitch operation goes on if it did. -/
structure Light (s t : State) : Prop where
  job : t.ctl.job = s.ctl.job
  active : t.ticket.active = s.ticket.active
  operation : t.ctl.inOperation = s.ctl.inOperation
  pends : pends t = pends s

theorem Light.refl (s : State) : Light s s := ⟨rfl, rfl, rfl, rfl⟩

theorem Light.trans {s t u : State} (h : Light s t) (k : Light t u) : Light s u :=
  ⟨k.job.trans h.job, k.active.trans h.active, k.operation.trans h.operation, k.pends.trans h.pends⟩

/-- The shape depends on the job state, the ticket and the entries alone. -/
theorem shape_of_eq {s t : State} (hj : t.ctl.job = s.ctl.job) (ha : t.ticket.active = s.ticket.active)
    (hp : pends t = pends s) (k : PipelineShape s) : PipelineShape t where
  ticket := by rw [hj, ha]; exact k.ticket
  delay := by rw [ha]; exact k.delay
  running := by
    rw [hj, ← pends_length, hp, pends_length]
    unfold gateDistOf
    rw [ha]
    exact k.running
  others := by
    rw [hj]
    intro hr
    have := k.others hr
    rw [← List.length_eq_zero_iff, ← pends_length, hp, pends_length, this]
    rfl
  behind := by rw [behind_iff, hp, ← behind_iff]; exact k.behind
  first := by rw [pendingAtZero_eq, hp, ← pendingAtZero_eq, hj]; exact k.first

theorem Light.shape {s t : State} (h : Light s t) (k : PipelineShape s) : PipelineShape t :=
  shape_of_eq h.job h.active h.pends k

/-- Between commands: no operation goes on, and the pipeline has its shape. -/
abbrev Sound (s : State) : Prop := Settled s ∧ PipelineShape s

/-- What an operation of the part does to the shape, inside a pitch operation and outside. -/
structure Moves (s t : State) : Prop where
  inside : s.ctl.inOperation = true → Light s t
  outside : Sound s → Sound t

namespace Moves

variable {s t u : State}

theorem refl (s : State) : Moves s s := ⟨fun _ => .refl s, id⟩

theorem after (k : Moves t u) (h : Moves s t) : Moves s u :=
  ⟨fun x => (h.inside x).trans (k.inside ((h.inside x).operation.trans x)), fun x => k.outside (h.outside x)⟩

/-- A change that reaches neither the claims nor the shape. -/
theorem light (h : Light s t) (k : t.ctl.claims = s.ctl.claims) : Moves s t :=
  ⟨fun _ => h, fun x => ⟨⟨h.operation.trans x.1.1, k.trans x.1.2⟩, h.shape x.2⟩⟩

theorem setBus (x : Bus) : Moves s (s.setBus x) := .light ⟨rfl, rfl, rfl, rfl⟩ rfl
theorem setPath (x : Path) : Moves s (s.setPath x) := .light ⟨rfl, rfl, rfl, rfl⟩ rfl
theorem setTicket {x : TicketBlock} (h : x.active = s.ticket.active) : Moves s (s.setTicket x) :=
  .light ⟨rfl, h, rfl, rfl⟩ rfl
theorem setStreams (x : StreamUnit) : Moves s (s.setStreams x) := .light ⟨rfl, rfl, rfl, rfl⟩ rfl
theorem setPipe {x : Pipeline} (h : x.entries.map Entry.isPending = s.pipe.entries.map Entry.isPending) :
    Moves s (s.setPipe x) := .light ⟨rfl, rfl, rfl, h⟩ rfl
theorem setEntries {x : List Entry} (h : x.map Entry.isPending = s.pipe.entries.map Entry.isPending) :
    Moves s (s.setEntries x) := .light ⟨rfl, rfl, rfl, h⟩ rfl
theorem setTally (x : Six Receiver) : Moves s (s.setTally x) := .light ⟨rfl, rfl, rfl, rfl⟩ rfl
theorem setSpoil (x : SpoilUnit) : Moves s (s.setSpoil x) := .light ⟨rfl, rfl, rfl, rfl⟩ rfl
theorem setLines (x : LineMonitor) : Moves s (s.setLines x) := .light ⟨rfl, rfl, rfl, rfl⟩ rfl
theorem setTimer (x : PitchTimer) : Moves s (s.setTimer x) := .light ⟨rfl, rfl, rfl, rfl⟩ rfl
theorem setStore (x : Store) : Moves s (s.setStore x) := .light ⟨rfl, rfl, rfl, rfl⟩ rfl
theorem setReport (x : Report) : Moves s (s.setReport x) := .light ⟨rfl, rfl, rfl, rfl⟩ rfl
theorem setFree (x : Nat) : Moves s (s.setFree x) := .light ⟨rfl, rfl, rfl, rfl⟩ rfl
theorem setCtl {x : JobControl} (h : x.job = s.ctl.job) (k : x.inOperation = s.ctl.inOperation)
    (l : x.claims = s.ctl.claims) : Moves s (s.setCtl x) := .light ⟨h, rfl, k, rfl⟩ l

theorem foldl {α : Type} {f : State → α → State} (h : ∀ s x, Moves s (f s x)) (l : List α) (s : State) :
    Moves s (l.foldl f s) := by
  induction l generalizing s with
  | nil => exact refl s
  | cons x l ih => exact .after (ih (f s x)) (h s x)

end Moves

/-- A fold of steps that keep a property. -/
theorem foldl_keeps {α : Type} {P : State → Prop} {f : State → α → State} (h : ∀ s x, P s → P (f s x)) (l : List α)
    (s : State) (k : P s) : P (l.foldl f s) := by
  induction l generalizing s with
  | nil => exact k
  | cons x l ih => exact ih (f s x) (h s x k)

/-! ## Marks -/

theorem mark_isPending (c : Cause) (k : Option Ply) (e : Entry) : (Entry.mark c k e).isPending = e.isPending := by
  cases e <;> rfl

theorem map_modify_same {f : Entry → Entry} (h : ∀ e, (f e).isPending = e.isPending) (p : Nat) (es : List Entry) :
    (es.modify p f).map Entry.isPending = es.map Entry.isPending := by
  apply List.ext_getElem
  · simp
  · intro i h1 h2
    simp only [List.getElem_map, List.getElem_modify]
    split
    · exact h _
    · rfl

theorem markAt_moves (p : Nat) (c : Cause) (k : Option Ply) (s : State) : Moves s (markAt p c k s) :=
  .setEntries (map_modify_same (mark_isPending c k) p _)

theorem changeSet_moves (n : Word) (a : BitVec 2) (f : SetEntry → SetEntry) (s : State) :
    Moves s (changeSet n a f s) := by
  refine .setEntries ?_
  rw [List.map_map]
  refine List.map_congr_left fun e _ => ?_
  cases e with
  | set x => simp only [Function.comp]; split <;> rfl
  | blank => rfl
  | pending => rfl

theorem markSerial_moves (n : Word) (a : BitVec 2) (c : Cause) (k : Option Ply) (s : State) :
    Moves s (markSerial n a c k s) := changeSet_moves ..

theorem markHalt_moves (s : State) : Moves s (markHalt s) := by
  refine .setEntries ?_
  rw [List.map_map]
  refine List.map_congr_left fun e _ => ?_
  cases e <;> rfl

/-! ## Changes of the job state, between operations -/

/-- The entries with the one at position 0 no longer PENDING. -/
theorem blankPending_pends (s : State) :
    pends (blankPending s) = match pends s with
      | [] => []
      | _ :: bs => false :: bs := by
  unfold blankPending pendingAtZero entryAt pends
  cases h : s.pipe.entries with
  | nil => simp [h, Entry.isPending]
  | cons e es =>
    cases e <;> simp [h, Entry.isPending, List.modify]

theorem blankPending_first (s : State) : pendingAtZero (blankPending s) = false := by
  rw [pendingAtZero_eq, blankPending_pends]
  cases pends s <;> rfl

@[simp] theorem blankPending_ctl (s : State) : (blankPending s).ctl = s.ctl := by
  unfold blankPending; split <;> rfl

@[simp] theorem blankPending_ticket (s : State) : (blankPending s).ticket = s.ticket := by
  unfold blankPending; split <;> rfl

theorem blankPending_length (s : State) : (blankPending s).pipe.entries.length = s.pipe.entries.length := by
  unfold blankPending; split <;> simp

theorem gateDistOf_eq {s t : State} (h : t.ticket.active = s.ticket.active) : gateDistOf t = gateDistOf s := by
  unfold gateDistOf; rw [h]

theorem blankPending_behind {s : State} (h : ∀ b ∈ (pends s).tail, b = false) :
    ∀ b ∈ (pends (blankPending s)).tail, b = false := by
  rw [blankPending_pends]
  cases hp : pends s with
  | nil => simp
  | cons b bs => rw [hp] at h; simpa using h

/-- A PENDING entry made BLANK and the job moved on among the running states. -/
theorem blanked_sound {s t : State} (h : Sound s) (hr : s.ctl.job.running = true) (hj : t.ctl.job.running = true)
    (ho : t.ctl.inOperation = false) (hc : t.ctl.claims = []) (ha : t.ticket.active = s.ticket.active)
    (hp : pends t = pends (blankPending s)) : Sound t := by
  refine ⟨⟨ho, hc⟩, ?_⟩
  constructor
  · rw [ha, ← h.2.ticket]
    constructor
    · intro e; rw [e] at hj; cases hj
    · intro e; rw [e] at hr; cases hr
  · rw [ha]; exact h.2.delay
  · intro _
    rw [gateDistOf_eq ha, ← h.2.running hr, ← pends_length, hp, pends_length, blankPending_length]
  · intro e; rw [hj] at e; cases e
  · rw [behind_iff, hp]; exact blankPending_behind ((behind_iff s).1 h.2.behind)
  · intro e; rw [pendingAtZero_eq, hp, ← pendingAtZero_eq, blankPending_first] at e; cases e

theorem blankPending_sound {s : State} (h : Sound s) : Sound (blankPending s) := by
  by_cases hr : s.ctl.job.running = true
  · exact blanked_sound h hr (by simpa using hr) (by simpa using h.1.1) (by simpa using h.1.2) (by simp) rfl
  · have he := h.2.others (by simpa using hr)
    have : pendingAtZero s = false := by rw [pendingAtZero_eq, pends, he]; rfl
    unfold blankPending
    rw [this]
    exact h

theorem enterHold_sound {s : State} (h : Sound s) (hr : s.ctl.job.running = true) : Sound (enterHold s) :=
  blanked_sound h hr rfl (by simp [enterHold, h.1.1]) (by simp [enterHold, h.1.2]) (by simp [enterHold]) rfl

theorem enterDrain_sound {s : State} (h : Sound s) (hr : s.ctl.job.running = true) : Sound (enterDrain s) :=
  blanked_sound h hr rfl (by simp [enterDrain, h.1.1]) (by simp [enterDrain, h.1.2]) (by simp [enterDrain]) rfl

theorem markHalt_pends (s : State) : pends (markHalt s) = pends s := by
  unfold markHalt pends
  simp only [State.setEntries_pipe, List.map_map]
  refine List.map_congr_left fun e _ => ?_
  cases e <;> rfl

theorem enterHalted_sound {s : State} (kind : FaultKind) (ply : BitVec 3) (serial : Word) (h : Sound s)
    (hr : s.ctl.job.running = true) : Sound (enterHalted kind ply serial s) := by
  refine blanked_sound h hr rfl ?_ ?_ ?_ ?_
  · simp [enterHalted, markHalt, h.1.1]
  · simp [enterHalted, markHalt, h.1.2]
  · simp [enterHalted, markHalt]
  · exact markHalt_pends (blankPending s)

/-- To READY with a ticket held: no entries. -/
theorem enterReady_sound {s : State} (h : Sound s) (hr : s.ctl.job ≠ .idle) : Sound (enterReady s) := by
  refine ⟨⟨h.1.1, h.1.2⟩, ?_⟩
  constructor
  · constructor
    · intro e; cases e
    · intro e; exact absurd (h.2.ticket.2 e) hr
  · exact h.2.delay
  · intro e; cases e
  · intro _; rfl
  · intro e he; cases he
  · intro e; cases e

theorem run_running {s : State} (h : s.ctl.job = .run) : s.ctl.job.running = true := by rw [h]; rfl

theorem holdTest_sound {s : State} (h : Sound s) : Sound (holdTest s) := by
  unfold holdTest; split
  next hj => exact enterHold_sound h (run_running hj.1)
  · exact h

theorem setFlags_sound {s : State} {x : JobControl} (h : Sound s) (hj : x.job = s.ctl.job)
    (ho : x.inOperation = s.ctl.inOperation) (hc : x.claims = s.ctl.claims) : Sound (s.setCtl x) :=
  (Moves.setCtl hj ho hc).outside h

theorem applyClaim_sound (c : Claim) {s : State} (h : Sound s) : Sound (applyClaim c s) := by
  unfold applyClaim
  split
  · split
    · exact h
    · split
      next hj => exact enterHold_sound (setFlags_sound h rfl rfl rfl) (run_running hj)
      · exact h
    · split
      next hj =>
        refine enterHalted_sound _ _ _ h ?_
        rcases hj with e | e | e <;> rw [e] <;> rfl
      · exact h
  · split
    next hj => exact enterDrain_sound h (run_running hj)
    · exact h
  · split
    next hj => exact enterReady_sound h (by rw [hj]; decide)
    · exact h
  · exact holdTest_sound h

theorem claim_moves (c : Claim) (s : State) : Moves s (claim c s) := by
  constructor
  · intro hi
    unfold claim
    rw [if_pos hi]
    exact ⟨rfl, rfl, rfl, rfl⟩
  · intro h
    unfold claim
    rw [if_neg (by rw [h.1.1]; decide)]
    exact applyClaim_sound c h

/-- The claims of an operation applied when it has ended. -/
theorem endOperation_sound {s : State} (h : PipelineShape s) : Sound (endOperation s) := by
  unfold endOperation
  generalize arrange s.freeCount s.ctl.claims = cs
  refine foldl_keeps (P := Sound) (fun s c h => applyClaim_sound c h) _ _ ⟨⟨rfl, rfl⟩, ?_⟩
  exact shape_of_eq (s := s) rfl rfl rfl h

/-! ## Operations used inside and outside -/

theorem begin_moves (s : State) : Moves s (begin s) := .setBus _

theorem recordFault_moves (kind : FaultKind) (ply : BitVec 3) (serial : Word) (s : State) :
    Moves s (recordFault kind ply serial s) := .setReport _

theorem raise_moves (kind : FaultKind) (ply : BitVec 3) (serial : Word) (s : State) :
    Moves s (raise kind ply serial s) := by
  unfold raise
  exact .after (claim_moves ..) (recordFault_moves ..)

theorem raiseAll_moves (rs : List (FaultKind × BitVec 3 × Word)) (s : State) : Moves s (raiseAll rs s) := by
  unfold raiseAll
  generalize arrange s.freeCount rs = l
  exact .after (.foldl (fun _ _ => raise_moves ..) l _) (.setFree _)

theorem pushRecord_moves (r : Record) (s : State) : Moves s (pushRecord r s) := by
  unfold pushRecord
  dsimp only
  split
  · exact .after (claim_moves ..) (.setReport _)
  · exact .setReport _

theorem pushRecords_moves (rs : List Record) (s : State) : Moves s (pushRecords rs s) := by
  unfold pushRecords
  exact .foldl (fun s r => pushRecord_moves r s) _ _

theorem sendUp_moves (q : Requester) (r : Response) (s : State) : Moves s (sendUp q r s) := .setBus _

theorem passDown_moves (q : Requester) (a : Access) (s : State) : Moves s (passDown q a s) := .setBus _

theorem setFeeder_moves (k : Ply) (f : Feeder) (s : State) : Moves s (setFeeder k f s) := .setPath _

theorem choose_moves {told : State → State} (h : ∀ s, Moves s (told s)) (s : State) : Moves s (choose told s) :=
  chooseFrom_rel .refl (fun _ _ _ k l => .after l k) (fun _ _ _ => .setStore _) (fun _ => raise_moves ..) h _ s

/-- Between operations the choice keeps the shape whatever keeps it is told. -/
theorem choose_sound {told : State → State} (h : ∀ s, Sound s → Sound (told s)) {s : State} (k : Sound s) :
    Sound (choose told s) :=
  chooseFrom_rel (R := fun s t => Sound s → Sound t) (fun _ => id) (fun _ _ _ k l => l ∘ k)
    (fun _ _ _ => (Moves.setStore _).outside) (fun _ => (raise_moves ..).outside) h _ s k

theorem joinQueue_moves (r : Request) (s : State) : Moves s (joinQueue r s) := by
  unfold joinQueue joinTelling
  exact .after (choose_moves .refl _) (.setStore _)

theorem joinTelling_sound {told : State → State} (h : ∀ s, Sound s → Sound (told s)) (r : Request) {s : State}
    (k : Sound s) : Sound (joinTelling told r s) :=
  choose_sound h ((Moves.setStore _).outside k)

theorem endRecovery_moves (s : State) : Moves s (endRecovery s) := by
  unfold endRecovery; split
  · exact .setStore _
  · exact .refl s

theorem setStream_moves (i : StreamId) (x : StreamState) (s : State) : Moves s (setStream i x s) := .setStreams _

theorem request_moves (i : StreamId) (d : StreamDesc) (l : Word) (s : State) : Moves s (request i d l s) := by
  unfold request
  dsimp only
  split
  · exact setStream_moves ..
  · exact .after (joinQueue_moves ..) (setStream_moves ..)

theorem testRenewal_moves (t : Ticket) (i : StreamId) (s : State) : Moves s (testRenewal t i s) := by
  unfold testRenewal; split
  · split
    · exact request_moves ..
    · exact .refl s
  · exact .refl s

theorem askReservation_moves (t : Ticket) (i : StreamId) (s : State) : Moves s (askReservation t i s) := by
  unfold askReservation
  dsimp only
  split
  · split
    · exact request_moves ..
    · exact testRenewal_moves ..
  · exact .refl s

theorem startReservations_moves (t : Ticket) (s : State) : Moves s (startReservations t s) := by
  unfold startReservations
  exact .foldl (fun s i => askReservation_moves t i s) _ _

theorem uncoveredRequests_moves (t : Ticket) (s : State) : Moves s (uncoveredRequests t s) := by
  unfold uncoveredRequests
  refine .foldl (fun s i => ?_) _ _
  split
  · exact askReservation_moves ..
  · exact .refl s

theorem drawnRequests_moves (t : Ticket) (s : State) : Moves s (drawnRequests t s) := by
  unfold drawnRequests
  exact .foldl (fun s i => testRenewal_moves t i s) _ _

theorem completeField_moves (k : Ply) (n : Word) (a : BitVec 2) (s : State) : Moves s (completeField k n a s) := by
  unfold completeField; split
  · exact .refl s
  · exact changeSet_moves ..

theorem applyPathMark_moves (k : Ply) (m : PathMark) (s : State) : Moves s (applyPathMark k m s) := by
  unfold applyPathMark; split
  · exact completeField_moves ..
  · exact .after (raise_moves ..) (markSerial_moves ..)
  · split
    · exact .after (raise_moves ..) (markSerial_moves ..)
    · exact .refl s

theorem takeResponse_moves (k : Ply) (r : Response) (s : State) : Moves s (takeResponse k r s) := by
  unfold takeResponse; split
  · exact sendUp_moves ..
  · exact .after (sendUp_moves ..) (.after (.foldl (fun s m => applyPathMark_moves k m s) _ _) (setFeeder_moves ..))

theorem takeHead_moves (k : Ply) (s : State) : Moves s (takeHead k s) := by
  unfold takeHead
  dsimp only
  split
  · exact .refl s
  · exact .after (takeResponse_moves ..) (setFeeder_moves ..)

theorem releaseHeads_moves (s : State) : Moves s (releaseHeads s) := by
  unfold releaseHeads
  dsimp only
  generalize arrange s.freeCount _ = l
  exact .after (.foldl (fun s k => takeHead_moves k s) l _) (.setFree _)

theorem decideSet_moves (p : Policy) (e : SetEntry) (s : State) : Moves s (decideSet p e s) := by
  unfold decideSet
  dsimp only
  split
  · exact .after (pushRecord_moves ..) (.setSpoil _)
  · exact .after (pushRecord_moves ..) (.setSpoil _)
  · exact .after (pushRecord_moves ..) (.setSpoil _)
  · exact .after (raise_moves ..) (.after (pushRecord_moves ..) (.setSpoil _))
  · exact .after (raise_moves ..) (.after (pushRecord_moves ..) (.setSpoil _))

theorem decideEntry_moves (p : Policy) (e : Entry) (s : State) : Moves s (decideEntry p e s) := by
  unfold decideEntry; split
  · exact decideSet_moves ..
  · exact .setSpoil _

theorem drawForSet_moves (t : Ticket) (s : State) : Moves s (drawForSet t s).2.2 := by
  unfold drawForSet; split
  · exact .refl s
  · split
    · exact .setStreams _
    all_goals exact .refl s

theorem drawRequests_moves (t : Ticket) (a : DrawAnswer) (s : State) : Moves s (drawRequests t a s) := by
  unfold drawRequests; split
  · exact drawnRequests_moves ..
  · exact uncoveredRequests_moves ..
  all_goals exact .refl s

theorem countOpened_moves (s : State) : Moves s (countOpened s) := .setPipe rfl

theorem freshOpening_moves (t : Ticket) (s : State) : Moves s (freshOpening t s).2 := by
  have h := drawForSet_moves t s
  unfold freshOpening
  dsimp only
  split
  · show Moves s (drawRequests t .drawn (countOpened (drawForSet t s).2.2))
    exact .after (drawRequests_moves ..) (.after (countOpened_moves _) h)
  · exact h
  · show Moves s (raise .storeFault 0 0 (drawRequests t .uncovered (drawForSet t s).2.2))
    exact .after (raise_moves ..) (.after (drawRequests_moves ..) h)
  · show Moves s (claim .exhausted (drawForSet t s).2.2)
    exact .after (claim_moves ..) h

theorem opening_moves (t : Ticket) (s : State) : Moves s (opening t s).2 := by
  unfold opening; split
  · split
    · exact .setSpoil _
    · exact freshOpening_moves t s
  · exact .refl s

theorem spliceStep_moves (s : State) (k : Ply) : Moves s (spliceStep s k) := by
  unfold spliceStep
  dsimp only
  split
  · split
    · exact .refl s
    · exact .after (markAt_moves ..) (.setSpoil _)
  · exact .refl s

theorem drainedNotice_moves (s : State) : Moves s (drainedNotice s) := by
  unfold drainedNotice; split
  · exact claim_moves ..
  · exact .refl s

/-! ## The path unit, between operations -/

theorem bindExpire_sound (k : Ply) {s : State} (h : Sound s) : Sound (bindExpire k s) :=
  (raise_moves ..).outside (blankPending_sound h)

theorem serveHead_sound (k : Ply) {s : State} (h : Sound s) : Sound (serveHead k s) := by
  unfold serveHead; split
  · exact h
  · split
    · unfold holdHead
      dsimp only
      split
      · exact bindExpire_sound k ((setFeeder_moves ..).outside h)
      · exact (setFeeder_moves ..).outside h
    · exact (takeHead_moves k s).outside h

theorem settleFor_sound (n : Nat) {s : State} (h : Sound s) : Sound (settleFor n s) := by
  induction n generalizing s with
  | zero => exact h
  | succ n ih =>
    unfold settleFor
    dsimp only
    split
    · exact h
    · exact ih (serveHead_sound _ ((Moves.setFree _).outside h))

theorem settle_sound {s : State} (h : Sound s) : Sound (settle s) := settleFor_sound _ h

/-! ## The pitch operation -/

theorem imageCheck_pends (t : Ticket) (k : Ply) (es : List Entry) :
    (imageCheck t k es).1.map Entry.isPending = es.map Entry.isPending := by
  unfold imageCheck
  dsimp only
  split
  · rfl
  · split
    next e he =>
      apply List.ext_getElem
      · simp
      · intro i h1 h2
        simp only [List.getElem_map, List.getElem_modify]
        split
        next hi =>
          subst hi
          simp only [List.length_map] at h2
          rw [List.getD_eq_getElem?_getD, List.getElem?_eq_getElem h2] at he
          simp only [Option.getD_some] at he
          rw [he]; rfl
        · rfl
    · rfl

theorem imageChecks_pends (t : Ticket) (es : List Entry) :
    (imageChecks t es).1.map Entry.isPending = es.map Entry.isPending := by
  unfold imageChecks
  suffices h : ∀ (l : List Ply) (acc : List Entry × List (FaultKind × BitVec 3 × Word)),
      (l.foldl (fun acc k => let r := imageCheck t k acc.1; (r.1, acc.2 ++ r.2)) acc).1.map Entry.isPending =
        acc.1.map Entry.isPending from h _ _
  intro l
  induction l with
  | nil => intro acc; rfl
  | cons k l ih => intro acc; rw [List.foldl_cons, ih]; exact imageCheck_pends t k acc.1

theorem tallyCheck_pends (t : Ticket) (es : List Entry) :
    (tallyCheck t es).1.map Entry.isPending = es.map Entry.isPending := by
  unfold tallyCheck
  split
  next e he =>
    dsimp only
    apply List.ext_getElem
    · simp
    · intro i h1 h2
      simp only [List.getElem_map, List.getElem_modify]
      split
      next hi =>
        subst hi
        simp only [List.length_map] at h2
        rw [List.getD_eq_getElem?_getD, List.getElem?_eq_getElem h2] at he
        simp only [Option.getD_some] at he
        rw [he]; rfl
      · rfl
  · rfl

theorem deadlineCheck_moves (t : Ticket) (s : State) : Moves s (deadlineCheck t s) := by
  unfold deadlineCheck
  exact .after (raiseAll_moves ..) (.setEntries (imageChecks_pends t _))

/-- What the stages of a pitch operation do to the shape, whatever they do beside: the job state, the ticket and the
operation stay. -/
structure During (s t : State) : Prop where
  job : t.ctl.job = s.ctl.job
  active : t.ticket.active = s.ticket.active
  operation : t.ctl.inOperation = s.ctl.inOperation

theorem During.trans {s t u : State} (h : During s t) (k : During t u) : During s u :=
  ⟨k.job.trans h.job, k.active.trans h.active, k.operation.trans h.operation⟩

theorem Light.during {s t : State} (h : Light s t) : During s t := ⟨h.job, h.active, h.operation⟩

/-- Stage 1: position 0 no longer PENDING, every other place as it was. -/
theorem closingChecks_during (t : Ticket) (first : List (FaultKind × BitVec 3 × Word)) {s : State}
    (hi : s.ctl.inOperation = true) :
    During s (closingChecks t first s) ∧ (closingChecks t first s).pipe.entries.length = s.pipe.entries.length ∧
    ((∀ b ∈ (pends s).tail, b = false) → ∀ b ∈ pends (closingChecks t first s), b = false) := by
  have h1 : Light s (raiseAll (first ++ (imageChecks t s.pipe.entries).2 ++
      (tallyCheck t (imageChecks t s.pipe.entries).1).2)
      (s.setEntries (tallyCheck t (imageChecks t s.pipe.entries).1).1)) := by
    refine Light.trans (t := s.setEntries (tallyCheck t (imageChecks t s.pipe.entries).1).1) ⟨rfl, rfl, rfl, ?_⟩
      ((raiseAll_moves ..).inside hi)
    unfold pends
    simp only [State.setEntries_pipe]
    rw [tallyCheck_pends, imageChecks_pends]
  unfold closingChecks
  dsimp only
  generalize raiseAll (first ++ (imageChecks t s.pipe.entries).2 ++
      (tallyCheck t (imageChecks t s.pipe.entries).1).2)
      (s.setEntries (tallyCheck t (imageChecks t s.pipe.entries).1).1) = u at h1 ⊢
  have hl : u.pipe.entries.length = s.pipe.entries.length := by rw [← pends_length, h1.pends, pends_length]
  split
  next hp =>
    have h2 : Light (blankPending u) (releaseHeads (blankPending u)) :=
      (releaseHeads_moves _).inside (by rw [blankPending_ctl, h1.operation]; exact hi)
    refine ⟨⟨?_, ?_, ?_⟩, ?_, ?_⟩
    · rw [h2.job, blankPending_ctl, h1.job]
    · rw [h2.active, blankPending_ticket, h1.active]
    · rw [h2.operation, blankPending_ctl, h1.operation]
    · rw [← pends_length, h2.pends, pends_length, blankPending_length, hl]
    · intro hb
      rw [h2.pends, blankPending_pends, h1.pends]
      cases hs : pends s with
      | nil => simp
      | cons b bs => rw [hs] at hb; simpa using hb
  next hp =>
    refine ⟨h1.during, hl, ?_⟩
    intro hb
    rw [pendingAtZero_eq, h1.pends] at hp
    rw [h1.pends]
    cases hs : pends s with
    | nil => simp
    | cons b bs =>
      rw [hs] at hb hp
      simp only [List.headD_cons, Bool.not_eq_true] at hp
      simpa [hp] using hb

/-- Stages 2 and 3: one entry fewer. -/
theorem shiftAndDecide_during (t : Ticket) {s : State} (hi : s.ctl.inOperation = true)
    (hl : s.pipe.entries ≠ []) :
    During s (shiftAndDecide t s) ∧ pends (shiftAndDecide t s) = (pends s).dropLast := by
  unfold shiftAndDecide
  rw [List.getLast?_eq_some_getLast hl]
  dsimp only
  have h := (decideEntry_moves t.policy (s.pipe.entries.getLast hl) (s.setEntries s.pipe.entries.dropLast)).inside hi
  refine ⟨⟨h.job, h.active, h.operation⟩, ?_⟩
  rw [h.pends]
  simp [pends, List.map_dropLast]

/-- The entry opened is PENDING only in RUN. -/
theorem opening_pending (t : Ticket) (s : State) (h : (opening t s).1.isPending = true) : s.ctl.job = .run := by
  unfold opening at h
  split at h
  next hj => exact hj
  · cases h

/-- The shape after a pitch operation in a running state. -/
theorem pitchOperation_sound {s : State} {t : Ticket} (first : List (FaultKind × BitVec 3 × Word))
    (h : Sound s) (hr : s.ctl.job.running = true) (ht : s.ticket.active = some t) : Sound (pitchOperation t first s) := by
  unfold pitchOperation
  dsimp only
  generalize hs0 : (s.setPipe { s.pipe with pitchCount := s.pipe.pitchCount + 1 }).setCtl
    { (s.setPipe { s.pipe with pitchCount := s.pipe.pitchCount + 1 }).ctl with inOperation := true, claims := [] } = s0
  have hi0 : s0.ctl.inOperation = true := by rw [← hs0]; rfl
  have hj0 : s0.ctl.job = s.ctl.job := by rw [← hs0]; rfl
  have ha0 : s0.ticket.active = s.ticket.active := by rw [← hs0]; rfl
  have hp0 : pends s0 = pends s := by rw [← hs0]; rfl
  have hG : s.pipe.entries.length = gateDistOf s := h.2.running hr
  have hpos : 1 ≤ gateDistOf s := by
    unfold gateDistOf
    rw [ht]
    have := h.2.delay t ht
    simp only [Option.map_some, Option.getD_some, Ticket.gateDist]
    omega
  obtain ⟨d1, l1, b1⟩ := closingChecks_during t first hi0
  have l1' : (closingChecks t first s0).pipe.entries.length = gateDistOf s := by
    rw [l1, ← pends_length, hp0, pends_length, hG]
  have ne1 : (closingChecks t first s0).pipe.entries ≠ [] := by
    intro e; rw [e] at l1'; simp at l1'; omega
  have b1' := b1 (by rw [hp0]; exact (behind_iff s).1 h.2.behind)
  generalize closingChecks t first s0 = s1 at *
  obtain ⟨d2, p2⟩ := shiftAndDecide_during t (d1.operation.trans hi0) ne1
  generalize shiftAndDecide t s1 = s2 at *
  have i2 : s2.ctl.inOperation = true := d2.operation.trans (d1.operation.trans hi0)
  have h3 := (opening_moves t s2).inside i2
  have hop := opening_pending t s2
  have d3 : During s2 (openNew t s2) := ⟨h3.job, h3.active, h3.operation⟩
  have p3 : pends (openNew t s2) = (opening t s2).1.isPending :: pends s2 := by
    unfold openNew
    simp only [pends, State.setEntries_pipe, List.map_cons]
    congr 1
    exact h3.pends
  generalize openNew t s2 = s3 at *
  have i3 : s3.ctl.inOperation = true := d3.operation.trans i2
  have h4 := (Moves.foldl spliceStep_moves plies s3).inside i3
  generalize plies.foldl spliceStep s3 = s4 at *
  have h5 := (drainedNotice_moves s4).inside (h4.operation.trans i3)
  refine endOperation_sound ?_
  have hj : (drainedNotice s4).ctl.job = s.ctl.job := by
    rw [h5.job, h4.job, d3.job, d2.job, d1.job, hj0]
  have ha : (drainedNotice s4).ticket.active = s.ticket.active := by
    rw [h5.active, h4.active, d3.active, d2.active, d1.active, ha0]
  have hp : pends (drainedNotice s4) = (opening t s2).1.isPending :: (pends s1).dropLast := by
    rw [h5.pends, h4.pends, p3, p2]
  constructor
  · rw [hj, ha]; exact h.2.ticket
  · rw [ha]; exact h.2.delay
  · intro _
    rw [gateDistOf_eq ha, ← pends_length, hp, List.length_cons, List.length_dropLast, pends_length, l1']
    omega
  · rw [hj, hr]; intro e; cases e
  · rw [behind_iff, hp]
    exact fun b hb => b1' b (List.dropLast_subset _ hb)
  · intro hb
    rw [pendingAtZero_eq, hp] at hb
    rw [hj, ← hj0, ← d1.job, ← d2.job]
    exact hop hb

/-! ## Events -/

theorem clearEncoder_moves (s : State) : Moves s (clearEncoder s) := .setTimer _

theorem countMakeReady_moves (s : State) : Moves s (countMakeReady s) := .setTimer _

theorem pitch_sound (first : List (FaultKind × BitVec 3 × Word)) {s : State} (h : Sound s) : Sound (pitch first s) := by
  have h0 := (clearEncoder_moves s).outside h
  unfold pitch
  dsimp only
  split
  · exact (Moves.after (raiseAll_moves ..) (countMakeReady_moves _)).outside h0
  · exact (Moves.after (raiseAll_moves ..) (countMakeReady_moves _)).outside h0
  · exact (raiseAll_moves ..).outside h0
  next h1 h2 h3 =>
    split
    next t ht =>
      refine settle_sound (pitchOperation_sound first h0 ?_ ht)
      generalize (clearEncoder s).ctl.job = j at h1 h2 h3
      cases j <;> simp_all [JobState.running]
    · exact h0

theorem powerActive_moves (s : State) : Moves s (powerActive s) := by
  unfold powerActive
  dsimp only
  split
  · exact .after (raise_moves ..) (.setLines _)
  · exact .after (.setStore _) (.after (raise_moves ..) (.setLines _))

theorem powerInactive_moves (s : State) : Moves s (powerInactive s) := by
  unfold powerInactive
  dsimp only
  split
  · exact .after (endRecovery_moves _) (.after (.setStore _) (.setLines _))
  · exact .setLines _

theorem holdreqTo_sound (a : Bool) {s : State} (h : Sound s) : Sound (holdreqTo a s) := by
  unfold holdreqTo
  dsimp only
  split
  · exact holdTest_sound ((Moves.setLines _).outside h)
  · exact (Moves.setLines _).outside h

/-- A change of settings, given the shape under the new ticket. -/
theorem setSettings_sound (t : Option Ticket) {s : State} (h : Sound (s.setTicket { s.ticket with active := t })) :
    Sound (setSettings t s) := by
  have h1 := (Moves.setLines (s := s.setTicket { s.ticket with active := t })
    { s.lines with runs := List.replicate 18 0 }).outside h
  unfold setSettings
  dsimp only
  split <;> split <;> (try split)
  all_goals first
    | exact (powerActive_moves _).outside (holdreqTo_sound _ h1)
    | exact (powerInactive_moves _).outside (holdreqTo_sound _ h1)
    | exact holdreqTo_sound _ h1
    | exact (powerActive_moves _).outside h1
    | exact (powerInactive_moves _).outside h1
    | exact h1

theorem sampleLines_moves (levels : BitVec 18) (s : State) : Moves s (sampleLines levels s) := by
  unfold sampleLines; split <;> exact .setLines _

theorem acceptLevel_moves (n : Fin 18) (b : Bool) (s : State) : Moves s (acceptLevel n b s) := .setLines _

theorem takeEdge_moves {n : Fin 18} {s t : State} (h : takeEdge n s = some t) : Moves s t := by
  unfold takeEdge at h
  repeat' split at h
  all_goals first | (cases h; first | exact .setLines _ | exact acceptLevel_moves ..) | cases h

theorem takeLevel_moves (n : Fin 18) (a : Bool) (s : State) : Moves s (takeLevel n a s) := by
  unfold takeLevel; split
  · exact .refl s
  · exact acceptLevel_moves ..

theorem spliceTaken_sound (k : Ply) {s : State} (h : Sound s) : Sound (spliceTaken k s) := by
  unfold spliceTaken
  split
  · split
    · exact settle_sound ((Moves.after (raise_moves ..) (.after (.setSpoil _) (markAt_moves ..))).outside h)
    · exact h
  · exact h

theorem answer_moves (code tag : Byte) (r : ResultCode) (check : BitVec 3) (detail : Word) (s : State) :
    Moves s (answer code tag r check detail s) := .setTicket rfl

theorem endPending_moves (r : ResultCode) (detail : Word) (s : State) : Moves s (endPending r detail s) := by
  unfold endPending; split
  · exact .setTicket rfl
  · exact .refl s

theorem replaceZero_sound {e : SetEntry} {s : State} (h : Sound s) : Sound (replaceZero (.set e) s) := by
  have hp : pends (replaceZero (.set e) s) = pends (blankPending s) := by
    rw [blankPending_pends]
    unfold replaceZero pends
    cases hs : s.pipe.entries <;> simp [List.modify, Entry.isPending]
  exact ⟨h.1, shape_of_eq (by simp [replaceZero]) (by simp [replaceZero]) hp (blankPending_sound h).2⟩

theorem resolvePending_sound {s : State} (h : Sound s) : Sound (resolvePending s) := by
  unfold resolvePending
  split
  · split
    · have hd := fun t => (drawForSet_moves t s).outside h
      dsimp only
      split
      · exact (drawRequests_moves ..).outside (replaceZero_sound ((countOpened_moves _).outside (hd _)))
      · exact hd _
      · exact (Moves.after (raise_moves ..) (drawRequests_moves ..)).outside (blankPending_sound (hd _))
      · exact (claim_moves ..).outside (blankPending_sound (hd _))
    · exact h
  · exact h

theorem streamCompleted_sound (i : StreamId) {s : State} (h : Sound s) : Sound (streamCompleted i s) := by
  unfold streamCompleted
  dsimp only
  split
  · split
    · exact resolvePending_sound ((setStream_moves ..).outside h)
    · exact resolvePending_sound ((Moves.after (testRenewal_moves ..) (setStream_moves ..)).outside h)
  · exact (setStream_moves ..).outside h

theorem streamFailed_sound (i : StreamId) {s : State} (h : Sound s) : Sound (streamFailed i s) :=
  resolvePending_sound ((setStream_moves ..).outside h)

theorem closeFailed_moves (i : StreamId) (book : Word) (s : State) : Moves s (closeFailed i book s) := by
  unfold closeFailed noteFailedClose
  split
  · exact .after (.setTicket rfl) (.setStore _)
  · exact .setStore _

theorem cleared_sound {s : State} (hj : s.ctl.job = .idle) (ha : s.ticket.active = none) (hp : s.pipe.entries = [])
    (hs : Settled s) : Sound s := by
  refine ⟨hs, ?_⟩
  constructor
  · simp [hj, ha]
  · rw [ha]; intro t e; cases e
  · rw [hj]; intro e; cases e
  · intro _; exact hp
  · rw [hp]; intro e he; cases he
  · rw [pendingAtZero_eq, pends, hp]; intro e; cases e

theorem endPending_ctl (r : ResultCode) (detail : Word) (s : State) : (endPending r detail s).ctl = s.ctl := by
  unfold endPending; split <;> rfl

theorem closeEnd_sound {s : State} (h : Sound s) : Sound (closeEnd s) := by
  unfold closeEnd
  dsimp only
  refine setSettings_sound none (cleared_sound rfl rfl rfl ?_)
  split
  · exact ⟨by simp [endPending_ctl, h.1.1], by simp [endPending_ctl, h.1.2]⟩
  · exact ⟨by simp [endPending_ctl, h.1.1], by simp [endPending_ctl, h.1.2]⟩

theorem closeIfDone_sound {s : State} (h : Sound s) : Sound (closeIfDone s) := by
  unfold closeIfDone; split
  · split
    · exact closeEnd_sound h
    · exact h
  · exact h

theorem chooseNext_sound {s : State} (h : Sound s) : Sound (chooseNext s) := choose_sound (fun _ => closeIfDone_sound) h

theorem chooseIfLeft_sound (s : State) {t : State} (h : Sound t) : Sound (chooseIfLeft s t) := by
  unfold chooseIfLeft; split
  · exact chooseNext_sound h
  · exact h

theorem completionNotice_sound (r : Request) {s : State} (h : Sound s) : Sound (completionNotice r s) := by
  unfold completionNotice; split
  · exact streamCompleted_sound _ h
  · exact closeIfDone_sound h
  · exact h
  · exact (endPending_moves ..).outside h

theorem failureNotice_sound (r : Request) {s : State} (h : Sound s) : Sound (failureNotice r s) := by
  unfold failureNotice; split
  · exact streamFailed_sound _ h
  · exact closeIfDone_sound ((closeFailed_moves ..).outside h)
  · exact h
  · exact (endPending_moves ..).outside h

theorem removeAll_sound (l : List Request) {s : State} (h : Sound s) : Sound (removeAll l s) := by
  induction l generalizing s with
  | nil => exact (Moves.setStore _).outside h
  | cons r rest ih => exact ih (failureNotice_sound r ((Moves.setStore _).outside h))

theorem becomeFailed_sound (c : FailCause) {s : State} (h : Sound s) : Sound (becomeFailed c s) :=
  (raise_moves ..).outside (removeAll_sound _ ((Moves.setStore _).outside h))

/-! ## Commands -/

theorem stageWord_moves (a : Addr) (w : WordWrite) (s : State) : Moves s (stageWord a w s) := by
  unfold stageWord; split
  · exact .setTicket rfl
  · exact .setTicket rfl
  · exact .setTicket rfl
  · exact .refl s
  · exact .refl s

theorem stageWords_moves (a : Addr) (ws : List WordWrite) (s : State) : Moves s (stageWords a ws s) := by
  induction ws generalizing a s with
  | nil => exact .refl s
  | cons w ws ih => exact .after (ih ..) (stageWord_moves ..)

/-- A ticket that passes the second check has a gate delay (R157). -/
theorem loadCheck_delay {ws : List Word} {st : Store} (h : loadCheck ws st = none) : 1 ≤ (ticketOf ws).gateDelay := by
  unfold loadCheck at h
  dsimp only at h
  split at h
  · cases h
  · split at h
    · cases h
    next hf =>
      have := List.find?_eq_none.1 hf (1, badHeader1 (stagedWord ws 1)) (by simp [rangeTests])
      simp only [Bool.not_eq_true] at this
      unfold badHeader1 at this
      simp only [Bool.or_eq_false_iff, beq_eq_false_iff_ne] at this
      have h5 := this.1.1.2
      show 1 ≤ field (stagedWord ws 1) 11 8
      omega

theorem acceptLoad_sound {s : State} (h : Sound s) (hi : s.ctl.job = .idle)
    (hd : 1 ≤ (ticketOf s.ticket.staged).gateDelay) : Sound (acceptLoad s) := by
  unfold acceptLoad
  dsimp only
  have he : s.pipe.entries = [] := h.2.others (by rw [hi]; rfl)
  refine chooseIfLeft_sound _ (setSettings_sound _ ⟨⟨h.1.1, h.1.2⟩, ?_⟩)
  constructor
  · constructor
    · intro e; cases e
    · intro e; cases e
  · intro t e; cases e; exact hd
  · intro e; cases e
  · intro _; exact he
  · intro e hm
    simp only [State.setTicket_pipe, State.setCtl_pipe, clearEncoder, State.setTimer_pipe, State.setSpoil_pipe,
      State.setTally_pipe, State.setPipe_pipe, State.setStreams_pipe] at hm
    rw [he] at hm; cases hm
  · intro e
    rw [pendingAtZero_eq] at e
    simp only [pends, State.setTicket_pipe, State.setCtl_pipe, clearEncoder, State.setTimer_pipe, State.setSpoil_pipe,
      State.setTally_pipe, State.setPipe_pipe, State.setStreams_pipe] at e
    rw [he] at e; cases e

theorem loadCommand_sound (tag : Byte) {s : State} (h : Sound s) : Sound (loadCommand tag s) := by
  unfold loadCommand
  split
  · exact (answer_moves ..).outside h
  next hj =>
    split
    · exact (answer_moves ..).outside h
    next hc => exact (answer_moves ..).outside (acceptLoad_sound h (by simpa using hj) (loadCheck_delay hc))

theorem filled_sound {s : State} (h : Sound s) (hj : s.ctl.job = .ready) :
    Sound ((s.setEntries (List.replicate (gateDistOf s) .blank)).setJob .run) := by
  refine ⟨⟨h.1.1, h.1.2⟩, ?_⟩
  constructor
  · constructor
    · intro e; cases e
    · intro e
      have := h.2.ticket.2 e
      rw [hj] at this; cases this
  · exact h.2.delay
  · intro _
    simp only [State.setJob_pipe, State.setEntries_pipe, List.length_replicate]
    rfl
  · intro e; cases e
  · intro e he
    simp only [State.setJob_pipe, State.setEntries_pipe, List.tail_replicate] at he
    rw [List.eq_of_mem_replicate he]; rfl
  · intro _; rfl

theorem startCommand_sound (tag : Byte) {s : State} (h : Sound s) : Sound (startCommand tag s) := by
  unfold startCommand
  split
  · exact (answer_moves ..).outside h
  next hj =>
    have hj : s.ctl.job = .ready := by simpa using hj
    split
    · exact (answer_moves ..).outside h
    · split
      · exact (answer_moves ..).outside h
      · split
        · exact (answer_moves ..).outside h
        · refine (answer_moves ..).outside ?_
          unfold acceptStart
          dsimp only
          have h1 := (clearEncoder_moves _).outside (filled_sound h hj)
          refine holdTest_sound ?_
          split
          · exact (startReservations_moves ..).outside h1
          · exact h1

theorem stopCommand_sound (tag : Byte) {s : State} (h : Sound s) : Sound (stopCommand tag s) := by
  unfold stopCommand
  split
  next hj => exact settle_sound ((answer_moves ..).outside (enterDrain_sound h (by rw [hj]; rfl)))
  next hj =>
    exact settle_sound ((answer_moves ..).outside (enterDrain_sound (setFlags_sound h rfl rfl rfl)
      (by show s.ctl.job.running = true; rw [hj]; rfl)))
  next hj =>
    exact settle_sound ((answer_moves ..).outside (enterDrain_sound (setFlags_sound h rfl rfl rfl)
      (by show s.ctl.job.running = true; rw [hj]; rfl)))
  · exact (answer_moves ..).outside h
  · exact (answer_moves ..).outside h

theorem holdCommand_sound (tag : Byte) {s : State} (h : Sound s) : Sound (holdCommand tag s) := by
  unfold holdCommand
  split
  next hj =>
    exact settle_sound ((answer_moves ..).outside (enterHold_sound (setFlags_sound h rfl rfl rfl)
      (by show s.ctl.job.running = true; rw [hj]; rfl)))
  · exact (answer_moves ..).outside h
  · exact (answer_moves ..).outside h

/-- A job that resumes: running before, RUN after. -/
theorem toRun_sound {s : State} (h : Sound s) (hr : s.ctl.job.running = true) : Sound ((clearCauses s).setJob .run) := by
  refine ⟨⟨h.1.1, h.1.2⟩, ?_⟩
  constructor
  · constructor
    · intro e; cases e
    · intro e
      have := h.2.ticket.2 e
      rw [this] at hr; cases hr
  · exact h.2.delay
  · intro _; exact h.2.running hr
  · intro e; cases e
  · exact h.2.behind
  · intro _; rfl

theorem resumeCommand_sound (tag : Byte) {s : State} (h : Sound s) : Sound (resumeCommand tag s) := by
  unfold resumeCommand
  split
  · exact (answer_moves ..).outside h
  next hj =>
    split
    · exact (answer_moves ..).outside h
    · split
      · exact (answer_moves ..).outside h
      · refine (answer_moves ..).outside (holdTest_sound (toRun_sound h ?_))
        generalize s.ctl.job = j at hj
        cases j <;> simp_all [JobState.running]

theorem abortEntry_moves (s : State) (e : Entry) : Moves s (abortEntry s e) := by
  unfold abortEntry; split
  · exact .after (pushRecord_moves ..) (.setSpoil _)
  · exact .refl s

/-- Voiding entries never leaves the running states: the queue's hold claim applies in RUN alone. -/
theorem abortEntries_job (l : List Entry) {s : State} (h : Sound s) (hr : s.ctl.job ≠ .idle) :
    Sound (l.foldl abortEntry s) ∧ (l.foldl abortEntry s).ctl.job ≠ .idle := by
  have hs := (Moves.foldl abortEntry_moves l s).outside h
  have ha : (l.foldl abortEntry s).ticket.active = s.ticket.active := by
    clear hs h hr
    induction l generalizing s with
    | nil => rfl
    | cons e l ih =>
      rw [List.foldl_cons, ih]
      unfold abortEntry
      split
      · unfold pushRecord
        dsimp only
        split
        · unfold claim
          split
          · rfl
          · unfold applyClaim holdTest
            dsimp only
            split
            · unfold enterHold; simp
            · rfl
        · rfl
      · rfl
  refine ⟨hs, fun e => hr (h.2.ticket.2 ?_)⟩
  rw [← ha]
  exact hs.2.ticket.1 e

theorem abortCommand_sound (tag : Byte) {s : State} (h : Sound s) : Sound (abortCommand tag s) := by
  unfold abortCommand
  split
  next hj =>
    refine settle_sound ((answer_moves ..).outside ?_)
    unfold acceptAbort
    dsimp only
    have h1 := abortEntries_job (blankPending s).pipe.entries.reverse (blankPending_sound h)
      (by rw [blankPending_ctl]; rcases hj with e | e | e <;> rw [e] <;> decide)
    exact enterReady_sound h1.1 h1.2
  · exact (answer_moves ..).outside h

theorem unmadeEntry_moves (s : State) (x : RemakeEntry) : Moves s (unmadeEntry s x) := by
  unfold unmadeEntry
  exact .after (pushRecord_moves ..) (.setSpoil _)

theorem closeRemakes_moves (s : State) : Moves s (closeRemakes s) := by
  unfold closeRemakes
  exact .after (.foldl unmadeEntry_moves _ _) (.setSpoil _)

theorem askClose_sound (t : Ticket) {told : State → State} (h : ∀ s, Sound s → Sound (told s)) (i : StreamId)
    {s : State} (k : Sound s) : Sound (askClose t told i s) := by
  unfold askClose
  dsimp only
  split
  · exact h _ ((closeFailed_moves ..).outside k)
  · exact joinTelling_sound h _ k

theorem askCloses_sound (t : Ticket) (l : List StreamId) {s : State} (h : Sound s) : Sound (askCloses t l s) := by
  induction l generalizing s with
  | nil => exact closeIfDone_sound h
  | cons i l ih =>
    cases l with
    | nil => exact askClose_sound t (fun _ => closeIfDone_sound) i h
    | cons j rest => exact ih (askClose_sound t (fun _ => id) i h)

theorem toClosing_sound {s : State} (h : Sound s) (hj : s.ctl.job = .ready) : Sound (s.setJob .closing) := by
  refine ⟨⟨h.1.1, h.1.2⟩, ?_⟩
  have he : s.pipe.entries = [] := h.2.others (by rw [hj]; rfl)
  constructor
  · constructor
    · intro e; cases e
    · intro e
      have := h.2.ticket.2 e
      rw [hj] at this; cases this
  · exact h.2.delay
  · intro e; cases e
  · intro _; exact he
  · exact h.2.behind
  · intro e
    rw [pendingAtZero_eq] at e
    simp only [pends, State.setJob_pipe] at e
    rw [he] at e; cases e

theorem closeCommand_sound (tag : Byte) {s : State} (h : Sound s) : Sound (closeCommand tag s) := by
  unfold closeCommand
  split
  · exact (answer_moves ..).outside h
  next hj =>
    split
    · exact (answer_moves ..).outside h
    · unfold acceptClose
      dsimp only
      generalize hu : closeRemakes _ = u
      have h1 : Sound u := by
        rw [← hu]
        refine (closeRemakes_moves _).outside ?_
        refine Moves.outside (Moves.setTicket ?_) ?_
        · rfl
        · exact (answer_moves ..).outside (toClosing_sound h (by simpa using hj))
      refine chooseIfLeft_sound _ ?_
      split
      · exact askCloses_sound _ _ ((pushRecords_moves ..).outside h1)
      · exact closeIfDone_sound h1

theorem spoilCommand_sound (tag : Byte) {s : State} (h : Sound s) : Sound (spoilCommand tag s) := by
  unfold spoilCommand
  dsimp only
  split
  · exact (answer_moves ..).outside h
  · split
    · exact (answer_moves ..).outside h
    · split
      · exact settle_sound ((Moves.after (answer_moves ..) (.after (raise_moves ..) (markAt_moves ..))).outside h)
      · exact (answer_moves ..).outside h

theorem retireCommand_moves (tag : Byte) (s : State) : Moves s (retireCommand tag s) := by
  unfold retireCommand
  dsimp only
  repeat' split
  all_goals first
    | exact answer_moves ..
    | exact .after (joinQueue_moves ..) (.after (.setTicket rfl) (answer_moves ..))

theorem commandOf_sound (code tag : Byte) {s : State} (h : Sound s) : Sound (commandOf code tag s) := by
  unfold commandOf
  repeat' split
  · exact loadCommand_sound _ h
  · exact startCommand_sound _ h
  · exact stopCommand_sound _ h
  · exact holdCommand_sound _ h
  · exact resumeCommand_sound _ h
  · exact abortCommand_sound _ h
  · exact closeCommand_sound _ h
  · exact spoilCommand_sound _ h
  · exact (retireCommand_moves ..).outside h
  · exact (Moves.after (answer_moves ..) (.setReport _)).outside h
  · exact (Moves.after (answer_moves ..) (.setReport _)).outside h
  · exact (answer_moves ..).outside h

end Sys2Proof.Machine
end

