-- ==== Sys2Proof/Laws/Meanings.lean ====
section
/-! SUPPORT. Laws/Meanings.lean: what the meanings leave alone: one lemma for every command that neither resets the part nor
ends an operation of the array, and one for each piece of those that do; the same for the pipeline's shape. -/

namespace Sys2Proof.Machine

open Sys2Proof.Safety

theorem takeCommand_keeps (code tag : Byte) {f : Byte → State → State} (h : ∀ t s, Keeps s (f t s)) (s : State) :
    Keeps s (takeCommand code tag f s) := by
  unfold takeCommand
  split
  · exact answer_keeps ..
  · exact h ..

theorem writeCommand_keeps (code : Byte) {f : Byte → State → State} (h : ∀ t s, Keeps s (f t s)) (w : CommandWrite)
    (s : State) : Keeps s (writeCommand code f w s) := by
  unfold writeCommand
  dsimp only
  split
  · exact passDown_keeps ..
  · exact .after (takeCommand_keeps _ _ h _) (.after (stageWords_keeps ..) (passDown_keeps ..))

theorem writeCommandWord_keeps (c : WordWrite) (s : State) : Keeps s (writeCommandWord c s) := by
  unfold writeCommandWord
  split
  · exact takeCommand_keeps _ _ (commandOf_keeps _) _
  · exact .setTicket rfl

theorem writeAccess_keeps (a : Addr) (ws : List WordWrite) (s : State) : Keeps s (writeAccess a ws s) := by
  unfold writeAccess
  dsimp only
  split
  · exact passDown_keeps ..
  · split
    · exact .after (writeCommandWord_keeps ..) (.after (stageWords_keeps ..) (passDown_keeps ..))
    · exact .after (stageWords_keeps ..) (passDown_keeps ..)

theorem overlayWords_keeps (a : Addr) (ws : List Word) (s : State) : Keeps s (overlayWords a ws s).2 := by
  induction ws generalizing a s with
  | nil => exact .refl s
  | cons w ws ih =>
    unfold overlayWords
    refine .after (ih ..) ?_
    unfold overlayWord
    split
    · dsimp only
      split
      · exact .setReport id
      · exact .refl s
    all_goals exact .refl s

theorem controllerResponse_keeps (r : Response) (s : State) : Keeps s (controllerResponse r s) := by
  unfold controllerResponse
  split
  · exact sendUp_keeps ..
  · exact .after (sendUp_keeps ..) (overlayWords_keeps ..)

theorem completeReport_keeps (k : Ply) (r : TallyReport) (s : State) : Keeps s (completeReport k r s) := by
  unfold completeReport
  split
  · exact .refl _
  · dsimp only
    split
    · exact .setTally _
    · split
      · exact .after (settle_keeps _) (.after (raise_keeps ..) (.after (.setEntries _) (.setTally _)))
      · exact .after (.setEntries _) (.setTally _)

theorem takeCharacter_keeps (k : Ply) (c : TallyChar) (s : State) : Keeps s (takeCharacter k c s) := by
  unfold takeCharacter
  dsimp only
  split
  · exact .after (completeReport_keeps ..) (.setTally _)
  · exact .setTally _

/-- What a command leaves alone that neither resets the part nor ends an operation of the array. -/
theorem exec_keeps (c : Instr) (s t : State) (h : exec c s = .next t)
  (hr : ∀ b cut, c ≠ .powerOnReset b cut) (hw : ∀ cut, c ≠ .warmReset cut) (hs : c ≠ .recoveryScan)
  (ha : ∀ v, c ≠ .appendCompletion v) (hk : ∀ v, c ≠ .compactionStepCompletion v)
    (he : ∀ r, c ≠ .eraseCompletion r) :
  Keeps s t := by
  cases c
  all_goals simp only [exec] at h
  case load =>
    obtain rfl := Host.Outcome.next.inj h
    exact .after (writeCommand_keeps _ loadCommand_keeps _ _) (begin_keeps s)
  case start =>
    obtain rfl := Host.Outcome.next.inj h
    exact .after (writeCommand_keeps _ startCommand_keeps _ _) (begin_keeps s)
  case stop =>
    obtain rfl := Host.Outcome.next.inj h
    exact .after (writeCommand_keeps _ stopCommand_keeps _ _) (begin_keeps s)
  case hold =>
    obtain rfl := Host.Outcome.next.inj h
    exact .after (writeCommand_keeps _ holdCommand_keeps _ _) (begin_keeps s)
  case resume =>
    obtain rfl := Host.Outcome.next.inj h
    exact .after (writeCommand_keeps _ resumeCommand_keeps _ _) (begin_keeps s)
  case abort =>
    obtain rfl := Host.Outcome.next.inj h
    exact .after (writeCommand_keeps _ abortCommand_keeps _ _) (begin_keeps s)
  case close =>
    obtain rfl := Host.Outcome.next.inj h
    exact .after (writeCommand_keeps _ closeCommand_keeps _ _) (begin_keeps s)
  case spoil =>
    obtain rfl := Host.Outcome.next.inj h
    exact .after (writeCommand_keeps _ spoilCommand_keeps _ _) (begin_keeps s)
  case retire =>
    obtain rfl := Host.Outcome.next.inj h
    exact .after (writeCommand_keeps _ retireCommand_keeps _ _) (begin_keeps s)
  case ack =>
    obtain rfl := Host.Outcome.next.inj h
    exact .after (writeCommand_keeps _ (commandOf_keeps 10) _ _) (begin_keeps s)
  case clearHistory =>
    obtain rfl := Host.Outcome.next.inj h
    exact .after (writeCommand_keeps _ (commandOf_keeps 11) _ _) (begin_keeps s)
  case unknownCommand =>
    obtain rfl := Host.Outcome.next.inj h
    exact .after (writeCommand_keeps _ (commandOf_keeps _) _ _) (begin_keeps s)
  case partialCommandWrite =>
    obtain rfl := Host.Outcome.next.inj h
    exact .after (writeAccess_keeps ..) (begin_keeps s)
  case stagingWrite =>
    obtain rfl := Host.Outcome.next.inj h
    exact .after (writeAccess_keeps ..) (begin_keeps s)
  case popWordRead =>
    obtain rfl := Host.Outcome.next.inj h
    exact .after (controllerResponse_keeps ..) (begin_keeps s)
  case powerOnReset => exact absurd rfl (hr _ _)
  case warmReset => exact absurd rfl (hw _)
  case recoveryScan => exact absurd rfl hs
  case appendCompletion => exact absurd rfl (ha _)
  case compactionStepCompletion => exact absurd rfl (hk _)
  case eraseCompletion => exact absurd rfl (he _)
  case headFeederAccess =>
    obtain rfl := Host.Outcome.next.inj h
    dsimp only; split
    · exact .after (passDown_keeps ..) (begin_keeps s)
    · exact .after (countAccess_keeps ..) (.after (passDown_keeps ..) (begin_keeps s))
  case readResponse =>
    obtain rfl := Host.Outcome.next.inj h
    dsimp only; split
    · exact .after (sendUp_keeps ..) (begin_keeps s)
    · exact .after (settle_keeps _) (.after (setFeeder_keeps ..) (begin_keeps s))
  case bindWaitExpiry =>
    obtain rfl := Host.Outcome.next.inj h
    dsimp only; split
    · exact .after (settle_keeps _) (.after (bindExpire_keeps ..) (begin_keeps s))
    · exact begin_keeps s
  case encEdge =>
    obtain rfl := Host.Outcome.next.inj h
    dsimp only; split
    · exact begin_keeps s
    · unfold countEncoder; split
      · exact .after (.setTimer _) (begin_keeps s)
      · exact begin_keeps s
  case pitchEvent =>
    obtain rfl := Host.Outcome.next.inj h
    dsimp only; split
    · split
      · exact .after (pitch_keeps ..) (begin_keeps s)
      · exact begin_keeps s
    · exact begin_keeps s
  case cueEdge =>
    unfold execCueEdge onEdge at h
    obtain rfl := Host.Outcome.next.inj h
    split
    · exact begin_keeps s
    · split
      next h1 =>
        refine .after ?_ (.after (takeEdge_keeps h1) (begin_keeps s))
        unfold takeCue; split
        · exact pitch_keeps ..
        · split
          · exact .refl _
          · split
            · exact .setTimer _
            · exact pitch_keeps ..
      · exact begin_keeps s
  case syntheticPitchEvent =>
    obtain rfl := Host.Outcome.next.inj h
    dsimp only; split
    · split
      · exact .after (pitch_keeps ..) (begin_keeps s)
      · exact begin_keeps s
    · exact begin_keeps s
  case deadlineEvent =>
    obtain rfl := Host.Outcome.next.inj h
    dsimp only; split
    · split
      · unfold deadline
        dsimp only
        split
        · exact .after (settle_keeps _) (.after (deadlineCheck_keeps ..) (.after (.setTimer _) (begin_keeps s)))
        · exact .after (.setTimer _) (begin_keeps s)
      · exact begin_keeps s
    · exact begin_keeps s
  case lineSample =>
    obtain rfl := Host.Outcome.next.inj h
    split
    · exact begin_keeps s
    · exact .after (sampleLines_keeps ..) (begin_keeps s)
  case spliceEdge =>
    unfold execSpliceEdge onEdge at h
    obtain rfl := Host.Outcome.next.inj h
    split
    · exact begin_keeps s
    · split
      next h1 => exact .after (spliceTaken_keeps ..) (.after (takeEdge_keeps h1) (begin_keeps s))
      · exact begin_keeps s
  case breakEdge =>
    unfold execBreakEdge onEdge at h
    obtain rfl := Host.Outcome.next.inj h
    split
    · exact begin_keeps s
    · split
      next h1 => exact .after (settle_keeps _) (.after (raise_keeps ..) (.after (takeEdge_keeps h1) (begin_keeps s)))
      · exact begin_keeps s
  case jamEdge =>
    unfold execJamEdge onEdge at h
    obtain rfl := Host.Outcome.next.inj h
    split
    · exact begin_keeps s
    · split
      next h1 => exact .after (settle_keeps _) (.after (raise_keeps ..) (.after (takeEdge_keeps h1) (begin_keeps s)))
      · exact begin_keeps s
  case holdreqChange =>
    obtain rfl := Host.Outcome.next.inj h
    dsimp only; split
    · exact begin_keeps s
    · exact .after (settle_keeps _) (.after (holdreqTo_keeps ..) (.after (takeLevel_keeps ..) (begin_keeps s)))
  case pwrwarnActive =>
    obtain rfl := Host.Outcome.next.inj h
    dsimp only; split
    · exact begin_keeps s
    · exact .after (settle_keeps _) (.after (powerActive_keeps _) (.after (takeLevel_keeps ..) (begin_keeps s)))
  case pwrwarnInactive =>
    obtain rfl := Host.Outcome.next.inj h
    dsimp only; split
    · exact begin_keeps s
    · exact .after (settle_keeps _) (.after (chooseIfLeft_keeps ..)
        (.after (powerInactive_keeps _) (.after (takeLevel_keeps ..) (begin_keeps s))))
  case tallyCharacter =>
    obtain rfl := Host.Outcome.next.inj h
    dsimp only; split
    · exact begin_keeps s
    · split
      · exact .after (takeCharacter_keeps ..) (begin_keeps s)
      · exact .after (.setTally _) (begin_keeps s)
  case tallyLineIdleSeen =>
    obtain rfl := Host.Outcome.next.inj h
    dsimp only; split
    · exact .after (.setTally _) (begin_keeps s)
    · exact begin_keeps s


/-! ## Completions, the scan and the resets -/

theorem appendVerified_keeps (b : EntryBody) (v : Bool) (s : State) : Keeps s (appendVerified b v s) := by
  have hp : ∀ s, Keeps s (popRequest s) := fun s => .setStore rfl (fun h => by simp; omega)
  unfold appendVerified
  split
  · unfold appendDone
    dsimp only
    split
    · exact .after (completionNotice_keeps ..) (.after (hp _) (.setStore rfl id))
    · exact .after (hp _) (.setStore rfl id)
  · split
    · unfold appendFailed
      dsimp only
      split
      · exact .after (raise_keeps ..) (.after (failureNotice_keeps ..) (hp _))
      · exact .after (raise_keeps ..) (hp _)
    · exact .setStore rfl id

theorem finishOperation_keeps (q : Word) (s : State) : Keeps s (finishOperation q s) := by
  unfold finishOperation
  dsimp only
  split
  · exact .after (settle_keeps _) (.after (becomeFailed_keeps ..) (.setStore rfl id))
  · exact .after (settle_keeps _) (.after (chooseNext_keeps _) (.after (endRecovery_keeps _) (.setStore rfl id)))

theorem finishErase_keeps (r : EraseResult) (s : State) : Keeps s (finishErase r s) := by
  unfold finishErase
  split
  · exact .after (settle_keeps _) (becomeFailed_keeps ..)
  · exact .after (settle_keeps _) (.after (chooseNext_keeps _) (endRecovery_keeps _))

theorem recoverBook_keeps (s : State) (r : BookRow) : Keeps s (recoverBook s r) := by
  unfold recoverBook
  dsimp only
  split
  · exact pushRecord_keeps ..
  next h =>
    refine .after (.setStore rfl fun _ => ?_) (pushRecord_keeps ..)
    have := refuses_full (by simpa using h)
    simp; omega

/-- The scan keeps what the state has once its sectors and its table are classified. -/
theorem scan_keeps (s : State) : Keeps { s with store := scanned s.store } (scan s) := by
  unfold scan
  dsimp only
  split
  · exact .after (becomeFailed_keeps ..) (.foldl recoverBook_keeps _ _)
  · exact .after (chooseNext_keeps _) (.after (endRecovery_keeps _) (.foldl recoverBook_keeps _ _))

theorem stepVerified_keeps (c : Compaction) (b : EntryBody) (v : Bool) (st : Store) :
    StoreKeeps st (stepVerified c b v st) := by
  unfold stepVerified headerDone abandon copyDone
  repeat' split
  all_goals exact ⟨rfl, le_refl _⟩

theorem releaseAllRaw_keeps (s : State) : Keeps s (releaseAllRaw s) := by
  unfold releaseAllRaw
  refine .after (.foldl (fun s k => ?_) _ _) (.setFree _)
  unfold releaseRaw
  exact .foldl (fun s r => sendUp_keeps ..) _ _

/-! ## The shape -/

theorem takeCommand_sound (code tag : Byte) {f : Byte → State → State} (h : ∀ t s, Sound s → Sound (f t s))
    {s : State} (hs : Sound s) : Sound (takeCommand code tag f s) := by
  unfold takeCommand
  split
  · exact (answer_moves ..).outside hs
  · exact h _ _ hs

theorem writeCommand_sound (code : Byte) {f : Byte → State → State} (h : ∀ t s, Sound s → Sound (f t s))
    (w : CommandWrite) {s : State} (hs : Sound s) : Sound (writeCommand code f w s) := by
  unfold writeCommand
  dsimp only
  split
  · exact (passDown_moves ..).outside hs
  · exact takeCommand_sound _ _ h ((stageWords_moves ..).outside ((passDown_moves ..).outside hs))

theorem writeCommandWord_sound (c : WordWrite) {s : State} (hs : Sound s) : Sound (writeCommandWord c s) := by
  unfold writeCommandWord
  split
  · exact takeCommand_sound _ _ (fun t s => commandOf_sound _ t) hs
  · exact (Moves.setTicket (x := { s.ticket with partials := s.ticket.partials + 1 }) rfl).outside hs

theorem writeAccess_sound (a : Addr) (ws : List WordWrite) {s : State} (hs : Sound s) :
    Sound (writeAccess a ws s) := by
  unfold writeAccess
  dsimp only
  split
  · exact (passDown_moves ..).outside hs
  · split
    · exact writeCommandWord_sound _ ((stageWords_moves ..).outside ((passDown_moves ..).outside hs))
    · exact ((stageWords_moves ..).outside ((passDown_moves ..).outside hs))

theorem overlayWords_moves (a : Addr) (ws : List Word) (s : State) : Moves s (overlayWords a ws s).2 := by
  induction ws generalizing a s with
  | nil => exact .refl s
  | cons w ws ih =>
    unfold overlayWords
    refine .after (ih ..) ?_
    unfold overlayWord
    split
    · dsimp only
      split
      · exact .setReport _
      · exact .refl s
    all_goals exact .refl s

theorem countAccess_moves (k : Ply) (a : Access) (s : State) : Moves s (countAccess k a s) := setFeeder_moves ..

theorem controllerResponse_moves (r : Response) (s : State) : Moves s (controllerResponse r s) := by
  unfold controllerResponse
  split
  · exact sendUp_moves ..
  · exact .after (sendUp_moves ..) (overlayWords_moves ..)

theorem modify_set_isPending (es : List Entry) (p : Nat) (e e' : SetEntry) (h : es.getD p .blank = .set e) :
   (es.modify p fun _ => .set e').map Entry.isPending = es.map Entry.isPending := by
  apply List.ext_getElem
  · simp
  · intro i h1 h2
    simp [List.getElem_modify]
    split
    · next h3 =>
      subst h3
      have : es[p]'(by simpa using h2) = .set e := by
        have hp : p < es.length := by simpa using h2
        simpa [List.getD, hp] using h
      rw [this]; rfl
    · rfl

theorem completeReport_sound (k : Ply) (r : TallyReport) {s : State} (hs : Sound s) : Sound (completeReport k r s) := by
  unfold completeReport
  split
  · exact hs
  next t _ =>
    dsimp only
    split
    · exact (Moves.setTally _).outside hs
    next e he =>
      have hput : ∀ c, Sound (putAt t.collator c
          (setReceiver k ((s.tally.get k).count (r == .malformed) (attributed t k s).isNone) s)) := by
        intro c
        refine (Moves.after (.setEntries ?_) (.setTally _)).outside hs
        unfold attributed at he
        split at he
        · split at he
          · next e' h2 => exact modify_set_isPending _ _ e' c h2
          · cases he
        · cases he
      split
      · exact settle_sound ((raise_moves ..).outside (hput _))
      · exact hput _

theorem takeCharacter_sound (k : Ply) (c : TallyChar) {s : State} (hs : Sound s) : Sound (takeCharacter k c s) := by
  unfold takeCharacter
  dsimp only
  split
  · exact completeReport_sound _ _ ((Moves.setTally _).outside hs)
  · exact (Moves.setTally _).outside hs

theorem onEdge_sound (n : Fin 18) {f : State → State} (h : ∀ s, Sound s → Sound (f s)) {s t : State} (hs : Sound s)
    (e : onEdge n f s = .next t) : Sound t := by
  have hb := (begin_moves s).outside hs
  unfold onEdge at e
  obtain rfl := Host.Outcome.next.inj e
  split
  · exact hb
  · split
    next h1 => exact h _ ((takeEdge_moves h1).outside hb)
    · exact hb

theorem popRequest_moves (s : State) : Moves s (popRequest s) := .setStore _

theorem appendVerified_sound (b : EntryBody) (v : Bool) {s : State} (hs : Sound s) : Sound (appendVerified b v s) := by
  unfold appendVerified
  split
  · unfold appendDone
    dsimp only
    split
    · exact completionNotice_sound _ ((Moves.after (popRequest_moves _) (.setStore _)).outside hs)
    · exact (Moves.after (popRequest_moves _) (.setStore _)).outside hs
  · split
    · unfold appendFailed
      dsimp only
      split
      · exact (raise_moves ..).outside (failureNotice_sound _ ((popRequest_moves _).outside hs))
      · exact (raise_moves ..).outside ((popRequest_moves _).outside hs)
    · exact (Moves.setStore _).outside hs

theorem finishOperation_sound (q : Word) {s : State} (hs : Sound s) : Sound (finishOperation q s) := by
  unfold finishOperation
  dsimp only
  refine settle_sound ?_
  split
  · exact becomeFailed_sound _ ((Moves.setStore _).outside hs)
  · exact chooseNext_sound ((endRecovery_moves _).outside ((Moves.setStore _).outside hs))

theorem finishErase_sound (r : EraseResult) {s : State} (hs : Sound s) : Sound (finishErase r s) := by
  unfold finishErase
  refine settle_sound ?_
  split
  · exact becomeFailed_sound _ hs
  · exact chooseNext_sound ((endRecovery_moves _).outside hs)

theorem recoverBook_moves (s : State) (r : BookRow) : Moves s (recoverBook s r) := by
  unfold recoverBook
  dsimp only
  split
  · exact pushRecord_moves ..
  · exact .after (.setStore _) (pushRecord_moves ..)

theorem scan_sound {s : State} (hs : Sound s) : Sound (scan s) := by
  unfold scan
  dsimp only
  have h1 : Sound (s.setStore (scanned s.store)) := (Moves.setStore _).outside hs
  split
  · exact becomeFailed_sound _ ((Moves.foldl recoverBook_moves _ _).outside h1)
  · exact chooseNext_sound ((endRecovery_moves _).outside ((Moves.foldl recoverBook_moves _ _).outside h1))

theorem resetTo_sound (b : Byte) (r : Report) (cut : Cut) (s : State) : Sound (resetTo b r cut s) :=
  cleared_sound rfl rfl rfl ⟨rfl, rfl⟩

end Sys2Proof.Machine
end

