-- ==== Sys2Proof/Laws/PerInstr.lean ====
section
/-! SUPPORT. Laws/PerInstr.lean: statements made per command. `TableWord`: spec/opcode_table.json gives no row any bits, so
no table word spells the command. -/

namespace Sys2Proof.Laws.TableWord

/-- No word of the table spells the command. -/
def Statement (i : Instr) : Prop := ∀ nbits w, decodeTableWord nbits w ≠ some i

/-- No word spells any command. -/
theorem none_spelled (i : Instr) : Statement i := fun _ _ h => by cases h

theorem load (w : CommandWrite) : Statement (.load w) := none_spelled _
theorem start (w : CommandWrite) : Statement (.start w) := none_spelled _
theorem stop (w : CommandWrite) : Statement (.stop w) := none_spelled _
theorem hold (w : CommandWrite) : Statement (.hold w) := none_spelled _
theorem resume (w : CommandWrite) : Statement (.resume w) := none_spelled _
theorem abort (w : CommandWrite) : Statement (.abort w) := none_spelled _
theorem close (w : CommandWrite) : Statement (.close w) := none_spelled _
theorem spoil (w : CommandWrite) : Statement (.spoil w) := none_spelled _
theorem retire (w : CommandWrite) : Statement (.retire w) := none_spelled _
theorem ack (w : CommandWrite) : Statement (.ack w) := none_spelled _
theorem clearHistory (w : CommandWrite) : Statement (.clearHistory w) := none_spelled _
theorem unknownCommand (code : Byte) (w : CommandWrite) : Statement (.unknownCommand code w) := none_spelled _
theorem partialCommandWrite (c : WordWrite) (arg1 arg2 : Option WordWrite) :
    Statement (.partialCommandWrite c arg1 arg2) := none_spelled _
theorem stagingWrite (addr : Addr) (words : List WordWrite) : Statement (.stagingWrite addr words) := none_spelled _
theorem popWordRead (r : Response) : Statement (.popWordRead r) := none_spelled _
theorem headFeederAccess (k : Ply) (a : Access) : Statement (.headFeederAccess k a) := none_spelled _
theorem readResponse (k : Ply) (r : Response) : Statement (.readResponse k r) := none_spelled _
theorem bindWaitExpiry (k : Ply) : Statement (.bindWaitExpiry k) := none_spelled _
theorem encEdge (rising : Bool) : Statement (.encEdge rising) := none_spelled _
theorem pitchEvent : Statement (.pitchEvent) := none_spelled _
theorem cueEdge : Statement (.cueEdge) := none_spelled _
theorem syntheticPitchEvent : Statement (.syntheticPitchEvent) := none_spelled _
theorem deadlineEvent : Statement (.deadlineEvent) := none_spelled _
theorem lineSample (levels : BitVec 18) : Statement (.lineSample levels) := none_spelled _
theorem spliceEdge (k : Ply) : Statement (.spliceEdge k) := none_spelled _
theorem breakEdge (k : Ply) : Statement (.breakEdge k) := none_spelled _
theorem jamEdge : Statement (.jamEdge) := none_spelled _
theorem holdreqChange (active : Bool) : Statement (.holdreqChange active) := none_spelled _
theorem pwrwarnActive : Statement (.pwrwarnActive) := none_spelled _
theorem pwrwarnInactive : Statement (.pwrwarnInactive) := none_spelled _
theorem tallyCharacter (k : Ply) (data : Byte) (stopHigh : Bool) :
    Statement (.tallyCharacter k data stopHigh) := none_spelled _
theorem appendCompletion (verified : Bool) : Statement (.appendCompletion verified) := none_spelled _
theorem compactionStepCompletion (verified : Bool) : Statement (.compactionStepCompletion verified) := none_spelled _
theorem eraseCompletion (r : EraseResult) : Statement (.eraseCompletion r) := none_spelled _
theorem powerOnReset (straps : Byte) (cut : Cut) : Statement (.powerOnReset straps cut) :=
  none_spelled _
theorem warmReset (cut : Cut) : Statement (.warmReset cut) := none_spelled _
theorem recoveryScan : Statement (.recoveryScan) := none_spelled _
theorem tallyLineIdleSeen (k : Ply) : Statement (.tallyLineIdleSeen k) := none_spelled _

end Sys2Proof.Laws.TableWord
end

