-- ==== Sys2Proof/Laws/Sector.lean ====
section
/-! SUPPORT. Laws/Sector.lean: the array's canonical form (R128): reading a slot after a programming or an erase, and that
every operation of the array keeps the form. -/

namespace Sys2Proof.Machine

namespace Sector

theorem slot_nil (m : Nat) : slot [] m = none := rfl

theorem slot_cons (p : Nat × Slot) (sec : Sector) (m : Nat) :
    slot (p :: sec) m = if p.1 = m then some p.2 else slot sec m := by
  unfold slot
  by_cases h : p.1 = m
  · simp [List.find?, h]
  · simp [List.find?, h, beq_eq_false_iff_ne.2 h]

/-- The programmed slot reads as programmed. -/
theorem slot_program_same (n : Nat) (x : Slot) (sec : Sector) : slot (program n x sec) n = some x := by
  induction sec with
  | nil => simp [program, slot_cons]
  | cons p sec ih =>
    obtain ⟨m, y⟩ := p
    unfold program
    split
    · simp [slot_cons]
    · split
      · simp [slot_cons]
      next h1 h2 => rw [slot_cons, if_neg (by intro e; exact h2 e.symm), ih]

/-- Every other slot reads as before. -/
theorem slot_program_other {n m : Nat} (x : Slot) (sec : Sector) (h : m ≠ n) :
    slot (program n x sec) m = slot sec m := by
  induction sec with
  | nil => simp [program, slot_cons, slot_nil, Ne.symm h]
  | cons p sec ih =>
    obtain ⟨k, y⟩ := p
    unfold program
    split
    · rw [slot_cons, if_neg (Ne.symm h)]
    · split
      next _ h2 => subst h2; rw [slot_cons, slot_cons, if_neg (Ne.symm h), if_neg (Ne.symm h)]
      · rw [slot_cons, slot_cons, ih]

theorem wf_iff (sec : Sector) : wf sec = true ↔ sec.Pairwise fun p q => p.1 < q.1 := by
  induction sec with
  | nil => simp [wf]
  | cons p sec ih =>
    obtain ⟨n, x⟩ := p
    cases sec with
    | nil => simp [wf]
    | cons q rest =>
      obtain ⟨m, y⟩ := q
      unfold wf
      rw [Bool.and_eq_true, ih, decide_eq_true_eq, List.pairwise_cons (a := (n, x))]
      constructor
      · rintro ⟨h, k⟩
        refine ⟨?_, k⟩
        intro r hr
        rcases List.mem_cons.1 hr with e | hm
        · rw [e]; exact h
        · exact lt_trans h ((List.pairwise_cons.1 k).1 r hm)
      · rintro ⟨h, k⟩
        exact ⟨h (m, y) (List.mem_cons_self ..), k⟩

theorem mem_program {n : Nat} {x : Slot} {sec : Sector} {p : Nat × Slot} (h : p ∈ program n x sec) :
    p = (n, x) ∨ p ∈ sec := by
  induction sec with
  | nil => simp [program] at h; exact .inl h
  | cons q sec ih =>
    obtain ⟨m, y⟩ := q
    unfold program at h
    split at h
    · rcases List.mem_cons.1 h with e | h
      · exact .inl e
      · exact .inr h
    · split at h
      · rcases List.mem_cons.1 h with e | h
        · exact .inl e
        · exact .inr (List.mem_cons_of_mem _ h)
      · rcases List.mem_cons.1 h with e | h
        · exact .inr (by rw [e]; exact List.mem_cons_self ..)
        · rcases ih h with e | h
          · exact .inl e
          · exact .inr (List.mem_cons_of_mem _ h)

/-- A programming keeps the form. -/
theorem program_wf (n : Nat) (x : Slot) {sec : Sector} (h : wf sec = true) : wf (program n x sec) = true := by
  rw [wf_iff] at h ⊢
  induction sec with
  | nil => simp [program]
  | cons q sec ih =>
    obtain ⟨m, y⟩ := q
    obtain ⟨hm, hs⟩ := List.pairwise_cons.1 h
    unfold program
    split
    next hlt =>
      refine List.pairwise_cons.2 ⟨fun p hp => ?_, h⟩
      rcases List.mem_cons.1 hp with e | hp
      · rw [e]; exact hlt
      · exact lt_trans hlt (hm p hp)
    next hnlt =>
      split
      next e => subst e; exact List.pairwise_cons.2 ⟨hm, hs⟩
      next hne =>
        refine List.pairwise_cons.2 ⟨fun p hp => ?_, ih hs⟩
        rcases mem_program hp with e | hp
        · rw [e]
          show m < n
          omega
        · exact hm p hp

/-- What an erase leaves keeps the form. -/
theorem partErased_wf (kept torn : List Nat) {sec : Sector} (h : wf sec = true) :
    wf (partErased kept torn sec) = true := by
  rw [wf_iff] at h ⊢
  unfold partErased
  refine List.Pairwise.filterMap _ (fun p q hpq p' hp' q' hq' => ?_) h
  have hk : ∀ (r r' : Nat × Slot), (if r.1 ∈ kept then some r
      else if r.1 ∈ torn then some (r.1, { r.2 with sound := false }) else none) = some r' → r'.1 = r.1 := by
    intro r r' e
    split at e
    · cases e; rfl
    · split at e
      · cases e; rfl
      · cases e
  rw [hk p p' hp', hk q q' hq']
  exact hpq

end Sector

open Sys2Proof.Safety

theorem arrayWf_iff (a : Four Sector) : arrayWf a = true ↔ ∀ i, Sector.wf (a.get i) = true := by
  unfold arrayWf Four.toList
  constructor
  · intro h i
    simp only [List.all_cons, List.all_nil, Bool.and_true, Bool.and_eq_true] at h
    fin_cases i
    · exact h.1
    · exact h.2.1
    · exact h.2.2.1
    · exact h.2.2.2
  · intro h
    simp only [List.all_cons, List.all_nil, Bool.and_true, Bool.and_eq_true]
    exact ⟨h 0, h 1, h 2, h 3⟩

/-- One sector replaced by one in canonical form. -/
theorem arrayWf_set {a : Four Sector} (i : SectorId) {sec : Sector} (h : arrayWf a = true) (k : Sector.wf sec = true) :
    arrayWf (a.set i sec) = true := by
  rw [arrayWf_iff] at h ⊢
  intro j
  rw [Four.get_set]
  split
  · exact k
  · exact h j

/-- What a reset cuts off keeps the form. -/
theorem cutArray_wf (cut : Cut) {st : Store} (h : arrayWf st.array = true) : arrayWf (cutArray cut st) = true := by
  have h' := (arrayWf_iff _).1 h
  unfold cutArray
  split
  · refine arrayWf_set _ h ?_
    unfold cutSlot
    split
    · exact h' _
    · exact Sector.program_wf _ _ (h' _)
    · exact Sector.program_wf _ _ (h' _)
  · refine arrayWf_set _ h ?_
    unfold cutSlot
    split
    · exact h' _
    · exact Sector.program_wf _ _ (h' _)
    · exact Sector.program_wf _ _ (h' _)
  · exact arrayWf_set _ h (Sector.partErased_wf _ _ (h' _))
  · exact h

/-- A programming in the array keeps the form. -/
theorem writeSlot_wf (i : SectorId) (n : Nat) (x : Slot) {s : State} (h : arrayWf s.store.array = true) :
    arrayWf (writeSlot i n x s).store.array = true :=
  arrayWf_set i h (Sector.program_wf n x ((arrayWf_iff _).1 h i))

/-- An erase keeps the form. -/
theorem eraseVerified_wf (i : SectorId) (r : EraseResult) {st : Store} (h : arrayWf st.array = true) :
    arrayWf (eraseVerified i r st).array = true := by
  unfold eraseVerified
  split
  · exact arrayWf_set i h rfl
  · exact arrayWf_set i h (Sector.partErased_wf _ _ ((arrayWf_iff _).1 h i))

/-- The array of a part never written is in canonical form. -/
theorem reset_arrayWf : arrayWf State.reset.store.array = true := by decide

end Sys2Proof.Machine
end

