-- ==== Sys2Proof/Tests/Slice0.lean ====
section
/-! SUPPORT. Tests/Slice0.lean: ill-formed commands that the check refuses, worked values of the rules, single steps on
small states, and for each statement with hypotheses a state and operands that meet them. -/

namespace Sys2Proof.Tests

open Sys2Proof.Machine Sys2Proof.Safety

/-! ## Small states -/

/-- The next state of an outcome. -/
def nextOf : Host.Outcome State Fault Refusal → State
  | .next s => s
  | _ => State.reset

/-- One command's next state. -/
def go (c : Instr) (s : State) : State := nextOf (exec c s)

def ww (n : Nat) : WordWrite := { data := BitVec.ofNat 32 n, enables := 15 }

/-- A command with tag 7 and a first argument. -/
def cmd (n : Nat) : CommandWrite := { tag := 7, upper := 0, arg1 := some (ww n), arg2 := none }

def cut : Cut := { program := .torn, kept := [], torn := [], held := false }

/-- The staged words of a ticket: the words given by number, and the check word that makes the sum 0. -/
def staged (l : List (Nat × Nat)) : List Word :=
  let b := l.foldl (fun b x => b.set x.1 x.2) (List.replicate 128 0)
  (b.set 15 ((2 ^ 32 - b.sum % 2 ^ 32) % 2 ^ 32)).map (BitVec.ofNat 32)

/-- A ticket of a policy (1 VOID, 2 REMAKE, 3 PROOF) whose stream S0 runs from 1 to 1000 by 1 under a book: gate delay 2,
threshold 48, bind limit 20, L 1000, D 700, every input enabled; ply 1 with H 1 and one field, its tally on S0. -/
def ticketWords (policy book : Nat) : List (Nat × Nat) :=
  [(1, policy + 2 * 256 + 48 * 4096 + 20 * 2 ^ 24), (2, 1000 + 700 * 65536), (6, 0x55555555), (7, 0x55555555),
    (8, 0x55), (16, 1 + 65536), (18, book), (19, 1), (20, 1000), (80, 1 + 2 + 256 + 65536 + 2 ^ 24)]

def tkt (policy book : Nat) : Ticket := ticketOf (staged (ticketWords policy book))

/-- A store in service: sector 0 ACTIVE with its header, the others erased. -/
def store : Store :=
  { Store.afterReset ⟨[(0, ⟨1, .header 1, true⟩)], [], [], []⟩ with
    sectors := ⟨.active, .erased, .erased, .erased⟩
    lastSeq := 1
    phase := .inService
    scanMade := true }

/-- The part in IDLE with a ticket staged, its lines sampled. -/
def idle (policy book : Nat) : State :=
  { State.reset with
    store := store
    lines := { LineMonitor.cleared with sampled := true }
    ticket := { TicketBlock.cleared with staged := staged (ticketWords policy book) } }

/-- A live S0 at value 5. -/
def live : StreamState := { StreamState.cleared with status := .live, v := 5 }

/-- The part with the ticket active in a job state, with entries. -/
def inJob (policy book : Nat) (j : JobState) (es : List Entry) : State :=
  { idle policy book with
    ticket := { (idle policy book).ticket with active := some (tkt policy book) }
    ctl := { JobControl.cleared with job := j }
    streams := { each := ⟨live, .cleared, .cleared, .cleared⟩, generator := 1 }
    pipe := { entries := es, pitchCount := 9, opened := 3, reserveWait := 0 } }

/-- Set 3 with value 5 on S0. -/
def set3 : SetEntry := openedSet 3 1 ⟨some 5, none, none, none⟩ 9 0 0

def pend : Entry := .pending 9 0 0

/-- Feeder 1 with a record. -/
def withFeeder (f : Feeder) (s : State) : State := { s with path := { s.path with feeders := s.path.feeders.set 0 f } }

/-- The token of S0: width 3, zeros, no check digit, base H'30. -/
def token : Word := 0xA70C0030

/-- The part with the RESET line held. -/
def underReset : State := { idle 1 7 with resetting := true }

/-- The part with another store. -/
def withStore (st : Store) (s : State) : State := { s with store := st }

/-- The store with sector 0's last slot, or its slot n, programmed. -/
def filled (n : Nat) (st : Store) : Store :=
  { st with array := ⟨[(0, ⟨1, .header 1, true⟩), (n, ⟨1, .retire 3, true⟩)], [], [], []⟩ }

def field1 (n : Nat) : Response := { addr := 0x10000, ok := true, words := token :: List.replicate n 0 }

/-! ## Commands that no event brings -/

theorem test_wf_argument_gap : (Instr.load { tag := 0, upper := 0, arg1 := none, arg2 := some (ww 0) }).wf = false := by
  decide
theorem test_wf_known_code : (Instr.unknownCommand 3 (cmd 0)).wf = false := by decide
theorem test_wf_unknown_code : (Instr.unknownCommand 0 (cmd 0)).wf = true := by decide
theorem test_wf_full_enables : (Instr.partialCommandWrite (ww 0) none none).wf = false := by decide
theorem test_wf_partial_gap :
    (Instr.partialCommandWrite { data := 0, enables := 3 } none (some (ww 0))).wf = false := by decide
theorem test_wf_unaligned : (Instr.stagingWrite 2 [ww 0]).wf = false := by decide
theorem test_wf_empty_burst : (Instr.stagingWrite 0 []).wf = false := by decide
theorem test_wf_long_burst : (Instr.stagingWrite 0 (List.replicate 17 (ww 0))).wf = false := by decide
theorem test_wf_empty_read : (Instr.popWordRead { addr := 0, ok := true, words := [] }).wf = false := by decide
theorem test_wf_access : (Instr.headFeederAccess 0 { addr := 0, body := .read 17 }).wf = false := by decide
theorem test_wf_access_write : (Instr.headFeederAccess 0 { addr := 4, body := .write [] }).wf = false := by decide
theorem test_wf_response_address : (Instr.readResponse 0 { addr := 1, ok := true, words := [0] }).wf = false := by
  decide
theorem test_wf_response_long :
    (Instr.readResponse 0 { addr := 0, ok := true, words := List.replicate 17 0 }).wf = false := by decide
theorem test_wf_erase_slot : (Instr.eraseCompletion (.failed [256] [])).wf = false := by decide
theorem test_wf_cut_slot : (Instr.powerOnReset 0 { cut with torn := [256] }).wf = false := by decide
theorem test_wf_warm_cut_slot : (Instr.warmReset { cut with kept := [300] }).wf = false := by decide
theorem test_wf_good : (Instr.stagingWrite 0x400 [ww 1]).wf = true ∧ (Instr.load (cmd 0)).wf = true := by decide

/-! ## Values of the rules -/

theorem test_check_digits_of_1234567 :
    checkResult .mod10w 1234567 = some 0 ∧ checkResult .mod11 1234567 = some 4 ∧ checkResult .mod7 1234567 = some 5 := by
  decide
theorem test_mod11_passes_over : checkResult .mod11 135 = some 10 ∧ checkPasses .mod11 135 = false := by decide
theorem test_generator_from_1 : genSteps 24 1 = 135 ∧ genSteps 24 135 = 16405 := by decide +kernel
theorem test_proof_value_from_1 : proofValue .mod11 1 = (16405, 16405) := by decide +kernel
theorem test_step_of_31 : stepOf 31 = -1 := by decide
theorem test_glyphs_zeros : valueString (tokenOf token) .none 5 = [0x30, 0x30, 0x35] := by decide
theorem test_merge_bytes : mergeBytes 0x11223344 { data := 0xAABBCCDD, enables := 5 } = 0x11BB33DD := by decide
theorem test_snapshot_kind_none : kindCode none = 0 ∧ kindCode (some .splice) = 1 := by decide

/-! ## Single steps -/

theorem test_load_accepts : (go (.load (cmd 0)) (idle 1 7)).ctl.job = .ready ∧
    (go (.load (cmd 0)) (idle 1 7)).ticket.result.result = .done ∧
    (streamAt (go (.load (cmd 0)) (idle 1 7)) 0).v = 1 := by decide +kernel
theorem test_start_requests : (go (.start (cmd 0)) (inJob 1 7 .ready [])).ctl.job = .run ∧
    (go (.start (cmd 0)) (inJob 1 7 .ready [])).store.op = some (.append 0 1 2 (.reserve 7 .up 68 true none)) := by
  decide +kernel
theorem test_scan_of_empty_array : (go .recoveryScan State.reset).store.op = some (.step 0 0 1 (.header 1)) := by
  decide +kernel
theorem test_pop_removes_shown_record :
    (go (.popWordRead { addr := 0x81E0, ok := false, words := [9] })
      { idle 1 7 with report := { Report.cleared with queue := [.recovery 4 6] } }).report.queue = [] ∧
    (go (.popWordRead { addr := 0x81E0, ok := false, words := [9] })
      { idle 1 7 with report := { Report.cleared with queue := [.recovery 4 6] } }).bus.upstream =
      [(0, { addr := 0x81E0, ok := false, words := [1] })] := by decide +kernel
theorem test_value_field : (go (.readResponse 0 (field1 2)) (inJob 1 7 .run [.set set3, .blank, .blank])).bus.upstream =
    [(1, { field1 2 with words := [0x30, 0x30, 0x35] })] := by decide +kernel
theorem test_pitch_opens : (go .pitchEvent { inJob 1 0 .run [.blank, .blank, .blank] with
    timer := { PitchTimer.cleared with encoder := 1000 } }).pipe.entries =
    [.set (openedSet 4 1 ⟨some 5, none, none, none⟩ 10 0 0), .blank, .blank] := by decide +kernel

/-- The worked field of section 3.4.1: the string fixed at the token. -/
theorem test_glyphs_of_1234567 : valueString (tokenOf 0xA7210120) .mod10w 1234567 =
    [0x120, 0x121, 0x122, 0x123, 0x124, 0x125, 0x126, 0x127, 0x120] := by decide +kernel
/-- The reports of section 4.6.1. -/
theorem test_tally_report_agrees : numberMatches true .mod10w 1234567 [0, 1, 2, 3, 4, 5, 6, 7, 0] = true ∧
    numberMatches true .mod10w 1234567 [0, 1, 2, 3, 4, 5, 6, 9, 0] = false ∧
    numberMatches true .mod10w 1234567 [0, 1, 2, 3, 4, 5, 6, 7, 1] = false := by decide +kernel

/-! ## The hypotheses of the statements are met -/

theorem wit_step : arrayWf State.reset.store.array = true ∧ Settled State.reset ∧
    step State.reset = .next State.reset := ⟨by decide, by decide, rfl⟩

/-- A reset with a scan in front, of an array that holds 32 live books. -/
def booked32 : State :=
  { State.reset with
    store := Store.afterReset ⟨(0, ⟨1, .header 1, true⟩) :: (List.range 32).map fun i =>
      (i + 1, ⟨BitVec.ofNat 32 (i + 2), .close (BitVec.ofNat 32 (i + 1)) .up 9 false, true⟩), [], [], []⟩
    pending := [.recoveryScan] }

theorem wit_SizesKeptByStep : booked32.pending.head? = some .recoveryScan ∧
    (scanTable booked32.store.array).length = 32 ∧ BeforeScan booked32 ∧ BeforeScan State.reset := by
  refine ⟨rfl, by decide +kernel, ?_, ?_⟩ <;> intro _ <;> decide +kernel

/-- The invariants of the statements on capacities hold at reset. -/
theorem wit_bounds_at_reset : Sizes State.reset ∧ QueueBound State.reset ∧ BookBound State.reset := by
  refine ⟨⟨rfl, rfl, rfl, by decide, by decide⟩, ⟨?_, ?_, ?_, by decide, fun _ => by decide⟩,
    ⟨by decide, by decide, ?_, ?_, ⟨fun _ => rfl, fun _ => rfl⟩, ?_, ?_, by decide, by decide, ?_, ?_, ?_, ?_,
      fun _ => by decide⟩⟩ <;> simp [State.reset, TicketBlock.cleared, JobControl.cleared, Store.afterReset, JobState.running]

theorem wit_ResetCutsOperationOff :
    store.op = none ∧
    ({ store with op := some (.append 0 1 2 (.retire 4)) } : Store).op = some (.append 0 1 2 (.retire 4)) ∧
    ({ store with op := some (.step 1 0 2 (.header 2)) } : Store).op = some (.step 1 0 2 (.header 2)) ∧
    ({ store with op := some (.erase 0) } : Store).op = some (.erase 0) ∧ Sector.wf (store.array.get 0) = true := by
  decide

/-- Two headed sectors, the second the younger, and one torn. -/
def scanArray : Four Sector :=
  ⟨[(0, ⟨1, .header 1, true⟩), (1, ⟨2, .reserve 7 .up 70 true none, true⟩)],
    [(0, ⟨3, .header 2, true⟩), (1, ⟨4, .close 7 .up 9 false, true⟩)], [(0, ⟨5, .header 3, false⟩)], []⟩

theorem wit_ScanRebuildsStore :
    scanArray.get 3 = [] ∧ scanArray.get 2 ≠ [] ∧ Sector.generation (scanArray.get 2) = none ∧
    Sector.generation (scanArray.get 1) = some 2 ∧ Sector.generation (scanArray.get 0) = some 1 ∧
    (1, ⟨4, .close 7 .up 9 false, true⟩) ∈ scanArray.get 1 ∧
    scanReads scanArray ⟨4, .close 7 .up 9 false, true⟩ ∧
    (∀ f, scanReads scanArray f → bookOf f.body = some 7 → f ≠ ⟨4, .close 7 .up 9 false, true⟩ → f.seq.toNat < 4) ∧
    (∀ e, scanReads scanArray e → bookOf e.body ≠ some 8) := by
  refine ⟨rfl, by decide, by decide, by decide, by decide, by decide, ⟨1, 1, by decide, by decide, rfl⟩, ?_, ?_⟩
  · rintro f ⟨i, n, -, hm, -⟩ hb hne
    fin_cases i <;> simp [scanArray, Four.get] at hm
    · rcases hm with ⟨-, rfl⟩ | ⟨-, rfl⟩ <;> simp_all [bookOf]
    · rcases hm with ⟨-, rfl⟩ | ⟨-, rfl⟩ <;> simp_all [bookOf]
    · rcases hm with ⟨-, rfl⟩; simp_all [bookOf]
  · rintro f ⟨i, n, -, hm, -⟩
    fin_cases i <;> simp [scanArray, Four.get] at hm
    · rcases hm with ⟨-, rfl⟩ | ⟨-, rfl⟩ <;> simp [bookOf]
    · rcases hm with ⟨-, rfl⟩ | ⟨-, rfl⟩ <;> simp [bookOf]
    · rcases hm with ⟨-, rfl⟩; simp [bookOf]

theorem wit_RecoveryScanEndsReset :
    (underReset.resetting = true ∧ store.scanMade = true) ∧
    (State.reset.resetting = false ∧ State.reset.store.scanMade = false ∧ State.reset.store.op = none ∧
      State.reset.store.queue = [] ∧ State.reset.store.compaction = none ∧ State.reset.store.phase = .recovering ∧
      State.reset.store.quiesced = false) ∧
    (scanned (Store.afterReset ⟨[(0, ⟨0xFFFFFFFE, .header 1, true⟩)], [], [], []⟩)).lastSeq = 0xFFFFFFFE ∧
    (scanned (Store.afterReset ⟨scanArray.a0, [], [], []⟩)).active = some 0 ∧
    ((scanned (Store.afterReset ⟨scanArray.a0, [], [], []⟩)).table.filter (·.opened)).length = 1 ∧
    (scanned (Store.afterReset scanArray)).table.filter (·.opened) = [] := by decide +kernel

/-- A store in recovery with an operation and a queue. -/
def recovering (op : Operation) (q : List Request) : Store :=
  { store with phase := .recovering, op := some op, queue := q }

theorem wit_recovery_ends :
    (recovering (.append 0 1 2 (.close 7 .up 9 false)) [.recoveryClose 7]).active ≠ none ∧
    (recovering (.append 0 1 2 (.close 7 .up 9 false)) [.recoveryClose 7, .recoveryClose 8]).queue =
      .recoveryClose 7 :: [.recoveryClose 8] ∧
    ({ recovering (.step 0 0 2 (.header 1)) [] with compaction := some ⟨0, [], false⟩ } : Store).compaction =
      some ⟨0, [], false⟩ ∧
    (∀ r ∈ (recovering (.step 0 0 2 (.header 1)) []).queue, r.isRecoveryClose = false) := by decide +kernel

/-- The part with CLOSE pending. -/
def closing : State := { inJob 1 7 .closing [] with
  ticket := { (inJob 1 7 .closing []).ticket with waiting := some (waitingClose (cmd 0) (idle 1 7)) } }

theorem wit_TakenCommandAnswered : (cmd 0).wf = true ∧ underReset.resetting = true ∧ closing.resetting = false ∧
    closing.ticket.waiting = some (waitingClose (cmd 0) (idle 1 7)) ∧ (idle 1 7).ticket.waiting = none ∧
    ¬(1 ≤ (12 : Byte).toNat ∧ (12 : Byte).toNat ≤ 11) ∧ ¬(1 ≤ (0 : Byte).toNat ∧ (0 : Byte).toNat ≤ 11) ∧
    1 ≤ (11 : Byte).toNat := by decide +kernel

theorem wit_PartialCommandWriteCounted :
    (Instr.partialCommandWrite { data := 1, enables := 7 } (some (ww 3)) none).wf = true := by decide

/-- Access to the last ticket word; to the command word alone; to the argument words. -/
theorem wit_StagingWriteMergesWords :
    (idle 1 7).resetting = false ∧ (idle 1 7).ticket.staged.length = 128 ∧
    ((Instr.stagingWrite 0x1FC [ww 3]).wf = true ∧ wordAddr 0x1FC 0 = windowBase 0 + BitVec.ofNat 28 (4 * 127)) ∧
    (∀ j < 1, wordAddr 0x1FC j ≠ windowBase 0 + 0x400) ∧
    ((Instr.stagingWrite 0x400 [ww 3, ww 4, ww 5]).wf = true ∧ wordAddr 0x400 0 = windowBase 0 + 0x400 ∧
      wordAddr 0x400 1 = windowBase 0 + 0x404 ∧ wordAddr 0x400 2 = windowBase 0 + 0x408) ∧
    (idle 1 7).ticket.waiting = none ∧ closing.ticket.waiting = some (waitingClose (cmd 0) (idle 1 7)) ∧
    closing.resetting = false ∧ closing.ticket.staged.length = 128 := by decide +kernel

/-- A ticket with some words changed, staged in IDLE. -/
def stagedAs (l : List (Nat × Nat)) : State :=
  { idle 1 7 with ticket := { (idle 1 7).ticket with staged := staged (ticketWords 1 7 ++ l) } }

/-- A ticket whose range tests all pass has no word out of range. -/
theorem inRange_of {ws : List Word} (h : (rangeTests ws).all (fun x => !x.2) = true) (n : Nat) : ¬OutOfRange ws n := by
  intro hn
  have := List.all_eq_true.1 h _ ((outOfRange_iff ws n).2 hn)
  cases this

/-- The header's ranges at their ends: policy 0, source 2, rate 5, gate delay 0, threshold 0 and 49; L 15, D 0, D = L. -/
theorem test_header_ranges :
    ([0x01100, 0x01109, 0x01151, 0x01001, 0x00101, 0x31101] : List Word).all (fun w => decide (HeaderOut w)) = true ∧
    ([0x01101, 0x30F47] : List Word).all (fun w => decide (¬HeaderOut w)) = true ∧
    ([0x0001000F, 0x10, 0x00100010] : List Word).all (fun w => decide (LengthOut w)) = true ∧
    ([0x00010010, 0x000F0010, 0xFFFEFFFF] : List Word).all (fun w => decide (¬LengthOut w)) = true := by decide +kernel

/-- The descriptors' ranges at their ends: mode 3, step 0 and -16, K 0; H 0, F 9, Z 0 and 5. -/
theorem test_descriptor_ranges :
    ([0x10031, 1, 0x100001] : List Word).all (fun w => decide (StreamOut w)) = true ∧
    ([0x10001, 0x1F0001, 0x0F0001, 0x21, 0x100030] : List Word).all (fun w => decide (¬StreamOut w)) = true ∧
    RepeatOut 0x10011 0 ∧ ¬RepeatOut 0x10011 1 ∧ ¬RepeatOut 0x10001 0 ∧
    ([0x01000001, 0x01090101, 0x00000101, 0x05000101] : List Word).all (fun w => decide (PlyOut w)) = true ∧
    ([0x01000101, 0x04083F01, 0] : List Word).all (fun w => decide (¬PlyOut w)) = true := by decide +kernel

theorem wit_LoadRefusedByStateSumOrRange :
    Takes (cmd 0) (inJob 1 7 .ready []) ∧ (inJob 1 7 .ready []).ctl.job ≠ .idle ∧ Takes (cmd 0) (idle 1 7) ∧
    wordSum ((idle 1 7).ticket.staged.set 0 1) ≠ 0 ∧ wordSum (stagedAs [(2, 15 + 65536)]).ticket.staged = 0 ∧
    Takes (cmd 0) (stagedAs [(2, 15 + 65536)]) ∧ (stagedAs [(2, 15 + 65536)]).ctl.job = .idle := by decide +kernel

theorem wit_LoadRefusedByRange : OutOfRange (stagedAs [(2, 15 + 65536)]).ticket.staged 2 ∧
    (∀ m < 2, ¬OutOfRange (stagedAs [(2, 15 + 65536)]).ticket.staged m) := by
  refine ⟨(outOfRange_iff _ _).1 (by decide +kernel), fun m hm h => ?_⟩
  have : ∀ m < 2, (m, true) ∉ rangeTests (stagedAs [(2, 15 + 65536)]).ticket.staged := by decide +kernel
  exact this m hm ((outOfRange_iff _ _).2 h)

/-- The staged ticket's words are in range. -/
abbrev InRange (s : State) : Prop := ∀ n, ¬OutOfRange s.ticket.staged n

theorem wit_tickets_in_range : InRange (idle 1 7) ∧ InRange (stagedAs [(80, 0)]) ∧ InRange (stagedAs [(16, 0)]) ∧
    InRange (stagedAs [(20, 0)]) ∧ InRange (stagedAs [(16, 1 + 32)]) := by
  refine ⟨inRange_of ?_, inRange_of ?_, inRange_of ?_, inRange_of ?_, inRange_of ?_⟩ <;> decide +kernel

theorem wit_LoadRefusedByThirdToSixth :
    (Takes (cmd 0) (stagedAs [(80, 0)]) ∧ wordSum (stagedAs [(80, 0)]).ticket.staged = 0 ∧
      ∀ k, ((ticketOf (stagedAs [(80, 0)]).ticket.staged).plies.get k).enabled = false) ∧
    TallyStreamInactive (ticketOf (stagedAs [(16, 0)]).ticket.staged) 0 ∧
    ((∀ k, ¬TallyStreamInactive (ticketOf (stagedAs [(20, 0)]).ticket.staged) k) ∧
      RunAgainstStep (ticketOf (stagedAs [(20, 0)]).ticket.staged) 0) ∧
    ((∀ k, ¬TallyStreamInactive (ticketOf (stagedAs [(16, 33)]).ticket.staged) k) ∧
      (∀ i, ¬RunAgainstStep (ticketOf (stagedAs [(16, 33)]).ticket.staged) i) ∧
      BookNotAllowed (ticketOf (stagedAs [(16, 33)]).ticket.staged) 0) := by decide +kernel

/-- The store with a row for book 7. -/
def rowed (d : Direction) (high : Nat) : Store :=
  { store with table := [⟨7, d, BitVec.ofNat 32 high, false, false, none⟩] }

/-- Two streams of one book. -/
def shared : Ticket := ticketOf (stagedAs [(32, 1 + 65536), (34, 7), (35, 1), (36, 9)]).ticket.staged

/-- The ticket of the small states passes the first six checks; a row of book 7 at 9 fails the seventh. -/
theorem wit_passes_six : PassesSix (idle 1 7).ticket.staged :=
  ⟨by decide +kernel, wit_tickets_in_range.1, ⟨0, by decide +kernel⟩, by decide +kernel, by decide +kernel,
    by decide +kernel⟩

theorem wit_seventh_check : bookCheck (tkt 1 7) (rowed .up 9) = some (7, .bookOverlap, 0) ∧
    bookCheck (tkt 1 7) (rowed .up 0) = none ∧ Takes (cmd 0) (withStore (rowed .up 9) (idle 1 7)) := by decide +kernel

theorem wit_BookCheckJudgesStreams :
    (Store.afterReset store.array).phase = .recovering ∧ (∃ i, Booked (tkt 1 7) i) ∧ (∀ i, ¬Booked (tkt 3 7) i) ∧
    (bookCheck (tkt 1 7) store = none ∧ Booked (tkt 1 7) 0 ∧ store.row 7 = none ∧ newBooks (tkt 1 7) store 0 ≤ 32) ∧
    (Booked shared 1 ∧ bookTest shared store 0 = none ∧ (shared.streams.get 0).book = (shared.streams.get 1).book) ∧
    (rowed .down 0).row 7 = some ⟨7, .down, 0, false, false, none⟩ ∧
    beyond (tkt 1 7).streams.a0.dir (tkt 1 7).streams.a0.first 1 = false ∧
    (32 - (List.replicate 32 (⟨8, .up, 1, false, false, none⟩ : BookRow)).length < newBooks (tkt 1 7) store 0) := by
  decide +kernel

theorem wit_LoadAcceptedTakesJob : Takes (cmd 0) (idle 1 7) ∧ (idle 1 7).ctl.job = .idle ∧
    loadCheck (idle 1 7).ticket.staged (idle 1 7).store = none ∧ (idle 1 7).ctl.inOperation = false := by decide +kernel

/-- A proof ticket's first draw: the seed of job id 0 is 1, whose first value is 135, which MOD11 passes over. -/
theorem wit_proof_values : seedOf 0 = 1 ∧ seedOf 0xFF000000 = 1 ∧ seedOf 5 = 5 ∧ proofOf (proofRegister 1 0) = 135 ∧
    checkPasses .mod11 (proofOf (proofRegister 1 0)) = false ∧
    checkPasses .mod11 (proofOf (proofRegister 1 1)) = true := by decide +kernel

theorem wit_LoadSetsStreamUp :
    ((tkt 1 7).streams.get 1).active = false ∧ ((tkt 1 7).streams.get 0).active = true ∧
    ((tkt 1 7).streams.get 0).mode ≠ .fixed ∧ firstValid ((tkt 1 7).streams.get 0) = some 1 ∧
    firstValid { (tkt 1 7).streams.get 0 with skips := [(0, 1000)] } = none ∧
    admissible (tkt 1 7).streams.a0 1 = true ∧ admissible { (tkt 1 7).streams.a0 with skips := [(1, 1)] } 1 = false := by
  decide +kernel

/-- The part in READY with JAM at its active level. -/
def jammed (j : JobState) : State :=
  { inJob 1 7 j [] with lines := { LineMonitor.cleared with accepted := BitVec.twoPow 18 14 } }

/-- A state whose disposition queue holds 48 records. -/
def full (s : State) : State := { s with report := { s.report with queue := List.replicate 48 (.recovery 1 1) } }

theorem wit_StartAnswered :
    (Takes (cmd 0) (idle 1 7) ∧ (idle 1 7).ctl.job ≠ .ready) ∧ Takes (cmd 0) (inJob 1 7 .ready []) ∧
    FirstHaltLine (jammed .ready) 14 ∧ NoHaltLine (inJob 1 7 .ready []) ∧ 48 ≤ (full (inJob 1 7 .ready [])).report.queue.length ∧
    ((inJob 1 7 .ready []).report.queue.length < 48 ∧ (inJob 1 7 .ready []).spoil.remakes = [] ∧
      (inJob 1 7 .ready []).ticket.active = some (tkt 1 7) ∧ ((tkt 1 7).streams.get 0).active = true) ∧
    (∀ i, ((tkt 1 7).streams.get i).active = true → (streamAt (inJob 1 7 .ready []) i).status ≠ .exhausted) ∧
    (Booked (tkt 1 7) 0 ∧ (streamAt (inJob 1 7 .ready []) 0).status = .live ∧
      (streamAt (inJob 1 7 .ready []) 0).limit = none ∧ (streamAt (inJob 1 7 .ready []) 0).inFlight = false) ∧
    (∀ i, ¬Booked (tkt 1 0) i) := by decide +kernel

/-- READY with S0 in a state, the store another one. -/
def readyWith (x : StreamState) (st : Store) : State :=
  { withStore st (inJob 1 7 .ready []) with streams := { each := ⟨x, .cleared, .cleared, .cleared⟩, generator := 1 } }

/-- A store whose ACTIVE sector has no free slot and whose others are FULL or BAD; one FAILED. -/
def noSlot : Store := { filled 255 store with sectors := ⟨.active, .full, .full, .bad⟩ }

def failedStore : Store := { store with phase := .failed .worn }

/-- What START asks for in READY with S0 in a state. -/
def startAsks (x : StreamState) : List Request := requestsFor (tkt 1 7) (startLimit (tkt 1 7) (readyWith x store))

/-- START's request: an initial one, a renewal due, none where the limit is far; and the wait found at it. -/
theorem wit_start_requests :
    startAsks live = [.reservation 0 7 .up 68] ∧
    startAsks { live with limit := some 20 } = [.reservation 0 7 .up 84] ∧
    startAsks { live with limit := some 68 } = [] ∧
    (readyWith live noSlot).store.fullWait = false ∧
    (go (.start (cmd 0)) (readyWith live noSlot)).store.fullWait = true ∧
    (go (.start (cmd 0)) (readyWith live noSlot)).ctl.job = .halted ∧
    (go (.start (cmd 0)) (readyWith live failedStore)).ctl.job = .run := by decide +kernel

theorem wit_commands_by_job_state : ∀ j : JobState, ∃ s, Takes (cmd 0) s ∧ s.ctl.job = j ∧ s.ctl.inOperation = false :=
  fun j => ⟨inJob 1 7 j [], ⟨rfl, rfl, rfl⟩, rfl, rfl⟩

theorem wit_ResumeAnswered :
    ({ inJob 1 7 .hold [] with lines := { LineMonitor.cleared with holdreq := true } } : State).lines.holdreq = true ∧
    FirstHaltLine (jammed .halted) 14 ∧ NoHaltLine (inJob 1 7 .halted []) ∧ (inJob 1 7 .hold []).lines.holdreq = false ∧
    (inJob 1 7 .hold []).report.queue.length < 48 ∧ 48 ≤ (full (inJob 1 7 .hold [])).report.queue.length := by
  decide +kernel

theorem wit_CloseAnswered :
    (Takes (cmd 0) (inJob 1 7 .ready []) ∧ (inJob 1 7 .ready []).ctl.job = .ready ∧
      (inJob 1 7 .ready []).report.queue.length < 48 ∧ (inJob 1 7 .ready []).ticket.active = some (tkt 1 7) ∧
      Booked (tkt 1 7) 0 ∧ (inJob 1 7 .ready []).store.queue.length ≤ 36) ∧
    ({ store with op := some (.erase 3) } : Store).op ≠ none ∧ (∀ i, ¬Booked (tkt 3 7) i) ∧
    (inJob 3 7 .ready []).ticket.active = some (tkt 3 7) ∧
    (inJob 3 7 .ready []).store.queue.any Request.isCloseAppend = false := by decide +kernel

/-- CLOSE's ways: the store busy or QUIESCED; an array that starts the append; one where the book has no row; a FULL sector
erased before the second close append; a FAILED store. -/
theorem wit_close_ways :
    (FreeFor store 0 ∧ closeRequests (tkt 1 7) (inJob 1 7 .ready []) = [.closeAppend 0 7 .up none] ∧
      appendBody store (.closeAppend 0 7 .up none) = none) ∧
    (FreeFor (rowed .up 9) 0 ∧
      appendBody (rowed .up 9) (.closeAppend 0 7 .up none) = some (.close 7 .up 9 true)) ∧
    ({ store with sectors := ⟨.active, .full, .erased, .erased⟩ } : Store).lowest .full = some 1 ∧
    (∃ c, failedStore.phase = .failed c) ∧ (∀ j < (0 : StreamId), ¬Booked (tkt 1 7) j) ∧
    ({ store with quiesced := true } : Store).quiesced = true := by
  refine ⟨⟨⟨rfl, rfl, rfl, ?_, rfl, by decide +kernel, by decide +kernel⟩, by decide +kernel, by decide +kernel⟩,
    ⟨⟨rfl, rfl, rfl, ?_, rfl, by decide +kernel, by decide +kernel⟩, by decide +kernel⟩, by decide +kernel,
    ⟨.worn, rfl⟩, by decide, rfl⟩ <;> intro c h <;> cases h

theorem wit_SpoilAnswered :
    (inJob 1 7 .run [.blank, .set set3]).ctl.job ≠ .idle ∧ (3 : Word) = shadow 0 (cmd 3).arg1 ∧
    (3 : Word).toNat ≤ (inJob 1 7 .run [.blank, .set set3]).pipe.opened.toNat ∧
    (inJob 1 7 .run []).pipe.opened.toNat < (4 : Word).toNat ∧
    (inJob 1 7 .run [.blank, .set set3]).pipe.entries[1]? = some (.set set3) ∧ set3.serial = 3 ∧
    (inJob 1 7 .run [.blank]).pipe.entries[0]? = some .blank := by decide +kernel

/-- The part in IDLE with KEYSVC active and a store. -/
def keyed (st : Store) : State :=
  { idle 1 7 with store := st, lines := { LineMonitor.cleared with accepted := BitVec.twoPow 18 16 } }

theorem wit_RetireAnswered :
    (7 : Word) = shadow 0 (cmd 7).arg1 ∧ (idle 1 7).lines.accepted.getLsbD 16 = false ∧
    (keyed (rowed .up 9)).lines.accepted.getLsbD 16 = true ∧ (keyed (rowed .up 9)).store.phase = .inService ∧
    (keyed (Store.afterReset store.array)).store.phase ≠ .inService ∧ (keyed store).store.row 7 = none ∧
    (keyed (rowed .up 9)).store.row 7 = some ⟨7, .up, 9, false, false, none⟩ ∧
    (keyed (rowed .up 9)).store.queue.length < 40 ∧ Takes (cmd 7) (keyed (rowed .up 9)) := by decide +kernel

/-- A request that joins a free store, and a busy one. -/
theorem wit_request_joins :
    (FreeFor store 0 ∧ store.queue = [] ∧ appendBody store (.retire 7) = some (.retire 7)) ∧
    ({ store with op := some (.erase 3) } : Store).op ≠ none ∧ (keyed (rowed .up 9)).ctl.job ≠ .closing := by
  refine ⟨⟨⟨rfl, rfl, rfl, ?_, rfl, by decide +kernel, by decide +kernel⟩, rfl, rfl⟩, by decide, by decide⟩
  intro c h
  cases h

theorem wit_ControllerReadOverlaid :
    (Instr.popWordRead { addr := 0x81C0, ok := true, words := List.replicate 9 0 }).wf = true ∧
    underReset.resetting = true ∧ (idle 1 7).resetting = false ∧
    AtOffset (idle 1 7) (wordAddr 0x81C0 8) 0x81E0 ∧ AtOffset (idle 1 7) (wordAddr 0x81E0 1) 0x81E4 := by decide +kernel

theorem wit_ReportAreaShowsViews : Fits (full (idle 1 7)) ∧
    (full (idle 1 7)).report.queue = .recovery 1 1 :: List.replicate 47 (.recovery 1 1) ∧
    (idle 1 7).report.slots[15]? = some none ∧
    (raise .jam 0 0 (idle 1 7)).report.slots[0]? = some (some ⟨.jam, 0, 0, 0⟩) :=
  ⟨⟨by decide +kernel, by decide +kernel, by decide +kernel, by decide +kernel, by decide +kernel⟩, by decide +kernel,
    by decide +kernel, by decide +kernel⟩

theorem wit_FeederAccessCounted : InSlotOf (idle 1 7) 0 (wordAddr 0x37FFC 0) ∧ StraysOf (idle 1 7) 0 (wordAddr 0x37FFC 1) :=
  ⟨⟨0x37FFC, by decide, by decide, by decide⟩, ⟨0x38000, by decide, by decide, by decide⟩⟩

/-- The part in RUN with a PENDING entry at ply 1's head, feeder 1 holding a response. -/
def held : State := withFeeder { Feeder.cleared with queue := [field1 2], held := true, timer := some 20 }
  (inJob 1 7 .run [pend, .blank, .blank])

theorem wit_ReadResponseHeldOrTaken :
    (held.resetting = false ∧ (∀ j, headReady held j = false) ∧ (feeder held 0).queue ≠ []) ∧
    (∀ j, (feeder (inJob 1 7 .run [pend, .blank, .blank]) j).queue = []) ∧
    mustHold (inJob 1 7 .run [.blank, .blank, .blank]) 0 (field1 2) = false ∧
    mustHold (inJob 1 7 .run [pend, .blank, .blank]) 0 (field1 2) = true ∧
    bindLimitOf (inJob 1 7 .run [pend, .blank, .blank]) ≠ 0 ∧
    headPosOf (inJob 1 7 .run [pend, .blank, .blank]) 0 = some 0 ∧
    bindLimitOf ({ inJob 1 7 .run [] with ticket := { TicketBlock.cleared with
      active := some { tkt 1 7 with bindLimit := 0 } } }) = 0 := by decide +kernel

/-- Feeder 2's token meets the PENDING entry while feeder 1's response is held; with a bind limit of 0 the wait ends. -/
def held0 : State :=
  { held with ticket := { held.ticket with active := some { tkt 1 7 with
      bindLimit := 0
      plies := (tkt 1 7).plies.set 1 { (tkt 1 7).plies.get 0 with head := 1 } } } }

def field2 : Response := { field1 2 with addr := 0x38000 }

theorem wit_response_beside_held :
    held.resetting = false ∧ (feeder held 1).queue = [] ∧ (∀ j, j ≠ 1 → headReady held j = false) ∧
    mustHold held 1 field2 = false ∧ bindLimitOf held0 = 0 ∧ mustHold held0 1 field2 = true ∧
    (∀ j, j ≠ 1 → headReady held0 j = false) := by decide +kernel

theorem wit_BindWaitExpires :
    (held.resetting = false ∧ (feeder held 0).held = true ∧ (feeder held 0).timer ≠ none ∧ pendingAtZero held = true) ∧
    (feeder (idle 1 7) 0).held = false := by decide +kernel

/-- Feeder 1's first response not held yet, behind it a second one. -/
def unserved (limit : Byte) (e : Entry) : State :=
  withFeeder { Feeder.cleared with queue := [field1 2, field1 0] } { inJob 1 7 .run [e, .blank, .blank] with
    ticket := { TicketBlock.cleared with active := some { tkt 1 7 with bindLimit := limit } } }

/-- Nothing to serve; a first response to take, to hold, and to hold with no wait. -/
theorem wit_ReleaseServesAll :
    (feeder (settle held) 0).queue.head? = some (field1 2) ∧ (∀ k, headReady held k = false) ∧
    (headReady (unserved 20 .blank) 0 = true ∧ mustHold (unserved 20 .blank) 0 (field1 2) = false ∧
      ∀ j, j ≠ 0 → headReady (unserved 20 .blank) j = false) ∧
    (mustHold (unserved 20 pend) 0 (field1 2) = true ∧ bindLimitOf (unserved 20 pend) ≠ 0) ∧
    (mustHold (unserved 0 pend) 0 (field1 2) = true ∧ bindLimitOf (unserved 0 pend) = 0) := by decide +kernel

/-- Both responses leave, in issue order: the first wait ends at once, and its field shows spaces. -/
theorem test_release_in_order :
    (sentTo 0 (settle (unserved 0 pend))).map (·.words) = [[0x3A, 0x3A, 0x3A], [0x3A]] ∧
    (feeder (settle (unserved 0 pend)) 0).queue = [] := by decide +kernel

/-- The token stands alone in its response, at its slot's base. -/
theorem wit_one_token : (∀ n ≤ 2, OneToken (inJob 1 7 .run []) 0 (field1 n) 0 0x10000 3) ∧
    OneToken (inJob 1 7 .run []) 0 (field1 2) 0 0x10000 1 := by
  have h : ∀ n ≤ 2, ∀ j, j < 0 ∨ 0 + 1 ≤ j → ¬MarkedAt (inJob 1 7 .run []) 0 (field1 n) j := by
    rintro n hn j hj ⟨w, hw, hm, -⟩
    rcases j with _ | j
    · omega
    · simp only [field1, List.getElem?_cons_succ, List.getElem?_replicate] at hw
      split at hw <;> simp_all
      subst hw; exact absurd hm (by decide)
  have at0 : AtOffset (inJob 1 7 .run []) (wordAddr 0x10000 0) 0x10000 := by decide +kernel
  have mark : ∀ n, MarkedAt (inJob 1 7 .run []) 0 (field1 n) 0 := fun n =>
    ⟨token, rfl, by decide, 0x10000, by decide, by decide, at0⟩
  exact ⟨fun n hn => ⟨at0, mark n, by decide, by decide, fun j hj => h n hn j (by omega)⟩,
    at0, mark 2, by decide, by decide, h 2 (by decide)⟩

/-- Tokens refused: one malformed, one of a stream not active, one with a check digit the stream has not. -/
theorem wit_SpacesFieldRendered :
    (feeder (inJob 1 7 .run [.blank]) 0).cont = none ∧ (field1 2).words[0]? = some token ∧
    (tokenOf token).wellFormed 0 0x10000 = true ∧ (tokenOf 0xA7000030).wellFormed 0 0x10000 = false ∧
    (inJob 1 7 .ready []).ctl.job.running = false ∧ headPosOf (inJob 1 7 .run [.blank]) 1 = none ∧
    ((inJob 1 7 .run [.blank]).ticket.active = some (tkt 1 7) ∧ headPosOf (inJob 1 7 .run [.blank]) 0 = some 0 ∧
      entryAt (inJob 1 7 .run [.blank]) 0 = .blank ∧ ¬TokenRefused (tkt 1 7) 0 (tokenOf token) 0x10000) ∧
    TokenRefused (tkt 1 7) 0 (tokenOf 0xA7000030) 0x10000 ∧ TokenRefused (tkt 1 7) 0 (tokenOf 0xA74C0030) 0x10000 ∧
    TokenRefused (tkt 1 7) 0 (tokenOf 0xA70D0030) 0x10000 := by decide +kernel

theorem wit_ValueFieldRendered :
    (inJob 1 7 .run [.set set3]).ctl.job.running = true ∧ entryAt (inJob 1 7 .run [.set set3]) 0 = .set set3 ∧
    set3.values.get (tokenOf token).stream = some 5 ∧ set3.serial ≠ 0 ∧ (digits 5).length ≤ (tokenOf token).width ∧
    (field1 1).words.length < 0 + (tokenOf token).span ∧ 0 + (tokenOf token).span ≤ (field1 2).words.length ∧
    (tokenOf token).width < (digits 1000).length := by decide +kernel

/-- A record of set 3 with two glyphs left, and responses that continue it, complete it, and abandon it. -/
def open3 : Continuation := { glyphs := [0x30, 0x35], next := 0x10004, serial := 3, attempt := 1 }

def plain (a : Addr) (n : Nat) : Response := { addr := a, ok := true, words := List.replicate n 0 }

theorem wit_continuation :
    (feeder (withFeeder { Feeder.cleared with cont := some open3 } (inJob 1 7 .run [.set set3])) 0).cont = some open3 ∧
    open3.next = (plain 0x10004 1).addr ∧ (plain 0x10004 1).words.length < open3.glyphs.length ∧
    open3.glyphs.length ≤ (plain 0x10004 2).words.length ∧ open3.next ≠ (plain 0x10010 1).addr ∧ open3.serial ≠ 0 ∧
    Entry.set set3 ∈ (inJob 1 7 .run [.set set3]).pipe.entries ∧ set3.serial = open3.serial ∧
    set3.attempt = open3.attempt ∧ (plain 0x10004 0).words = [] := by decide +kernel

theorem wit_unmarked (s : State) (k : Ply) (a : Addr) (n j : Nat) : ¬MarkedAt s k (plain a n) j := by
  rintro ⟨w, hw, hm, -⟩
  simp only [plain, List.getElem?_replicate] at hw
  split at hw <;> simp_all
  subst hw; exact absurd hm (by decide)

/-- Two tokens in one response, cut between their fields: each shows the value. -/
def twoFields : Response := { addr := 0x10000, ok := true, words := [token, 0, 0] ++ [token, 0, 0] }

theorem wit_response_in_parts : twoFields.words = [token, 0, 0] ++ [token, 0, 0] ∧
    ([token, 0, 0] : List Word) ≠ [] ∧
    sentTo 0 (takeResponse 0 twoFields (inJob 1 7 .run [.set set3, .blank, .blank])) =
      [{ twoFields with words := [0x30, 0x30, 0x35, 0x30, 0x30, 0x35] }] := by decide +kernel

/-- A token behind a continued field: the record's glyphs first, then the token's. -/
theorem test_token_behind_continued_field :
    sentTo 0 (takeResponse 0 { field1 2 with addr := 0x10004, words := [0, 0, token, 0, 0] }
      (withFeeder { Feeder.cleared with cont := some open3 } (inJob 1 7 .run [.set set3, .blank, .blank]))) =
      [{ field1 2 with addr := 0x10004, words := [0x30, 0x35, 0x30, 0x30, 0x35] }] := by decide +kernel

theorem wit_ValueGlyphsSpellNumber : (digits 0xFFFFFFFF).length ≤ (tokenOf 0xA7280000).width ∧
    9 < (tokenOf 0xA7280000).width ∧ checkResult .mod7 5 = some 5 := by decide +kernel

/-- The timer at a count, in a job state, under a source. -/
def timed (source : PitchSource) (j : JobState) (n : Nat) : State :=
  { inJob 1 7 j [] with
    ticket := { TicketBlock.cleared with active := some { tkt 1 7 with source } }
    timer := { PitchTimer.cleared with encoder := BitVec.ofNat 32 n } }

theorem wit_TimerEventsBySource :
    (underReset.resetting = true ∧ (setting (idle 1 7) inEnc).enabled = true ∧
      true = !(setting (idle 1 7) inEnc).inverted) ∧
    ((timed .count .run 1000).ticket.active = some { tkt 1 7 with source := .count } ∧
      (tkt 1 7).formLength ≤ (timed .count .run 1000).timer.encoder.toNat) ∧
    5 * (tkt 1 7).formLength ≤ 4 * (timed .cue .run 1250).timer.encoder.toNat ∧
    EdgeTaken 1 (idle 1 7) ∧ (idle 1 7).ticket.active = none ∧ EdgeTaken 1 (timed .cue .run 499) ∧
    2 * (timed .cue .run 499).timer.encoder.toNat < (tkt 1 7).formLength ∧
    (tkt 1 7).formLength ≤ 2 * (timed .cue .run 500).timer.encoder.toNat ∧
    (timed .count .run 999).timer.encoder.toNat < (tkt 1 7).formLength ∧
    4 * (timed .cue .run 1249).timer.encoder.toNat < 5 * (tkt 1 7).formLength := by decide +kernel

theorem wit_DeadlineEventChecks :
    (timed .count .run 700).resetting = false ∧ (timed .count .run 700).timer.deadlineMade = false ∧
    (tkt 1 7).deadline ≤ (timed .count .run 700).timer.encoder.toNat ∧
    (timed .count .run 700).ctl.job.running = true ∧ (timed .count .ready 700).ctl.job.running = false ∧
    (timed .count .run 699).timer.encoder.toNat < (tkt 1 7).deadline ∧
    (go .deadlineEvent (timed .count .run 700)).timer.deadlineMade = true := by decide +kernel

theorem wit_ImageChecksJudgeHeads :
    ([Entry.set set3])[0]? = some (.set set3) ∧ ((tkt 1 7).plies.get 0).enabled = true ∧
    0 < ((tkt 1 7).plies.get 0).fields ∧ (tkt 1 7).headPos 0 = 0 ∧ set3.image.get 0 = .none ∧
    (set3.fields.get 0).toNat < ((tkt 1 7).plies.get 0).fields ∧
    ((tkt 1 7).plies.get 0).fields ≤ (({ set3 with fields := .const 1 } : SetEntry).fields.get 0).toNat ∧
    MissesImage (tkt 1 7) 0 set3 0 ∧ ¬MissesImage (tkt 1 7) 0 { set3 with fields := .const 1 } 0 ∧
    MissesTally (tkt 1 7) set3 0 ∧ ¬MissesTally (tkt 1 7) { set3 with tally := .const .matched } 0 ∧
    ([Entry.blank, .set set3])[(tkt 1 7).collator]? = some (.set set3) := by decide +kernel

/-- In HOLD with three entries. -/
def holdJob : State := inJob 1 7 .hold [.blank, .set set3, .blank]

/-- A job in a running state with the entries that its geometry asks for has the pipeline's shape. -/
theorem shape_of (j : JobState) (es : List Entry) (h : es.length = 3) (hj : j.running = true)
    (ht : ∀ e ∈ es.tail, e.isPending = false) (h0 : pendingAtZero (inJob 1 7 j es) = true → j = .run) :
    PipelineShape (inJob 1 7 j es) where
  ticket := ⟨fun h => absurd hj (by rw [show j = .idle from h]; decide), fun h => by cases h⟩
  delay t ht := by cases ht; decide +kernel
  running _ := h.trans (show 3 = (tkt 1 7).gateDist by decide +kernel)
  others h := by cases (h.symm.trans hj)
  behind := ht
  first := h0

/-- In RUN: S0 live, waiting, uncovered, drawn; a remake listed; a PENDING entry; in DRAIN every entry BLANK; a splice zone. -/
theorem wit_pitch_in_run :
    PipelineShape (inJob 1 7 .run [pend, .blank, .blank]) ∧ PipelineShape (inJob 1 7 .drain [.blank, .blank, .blank]) ∧
    pendingAtZero (inJob 1 7 .run [pend, .blank, .blank]) = true ∧
    (inJob 1 7 .run [.blank, .blank, .blank]).spoil.remakes = [] ∧
    drawAnswer (tkt 1 7) (inJob 1 7 .run [.blank, .blank, .blank]) = .uncovered ∧
    drawAnswer (tkt 1 0) (inJob 1 0 .run [.blank, .blank, .blank]) = .drawn ∧
    (inJob 1 7 .run []).spoil.zones.get 0 = 0 ∧ headPosOf (inJob 1 7 .run []) 0 = some 0 ∧
    ({ SpoilUnit.cleared with zones := .const 3 } : SpoilUnit).zones.get 0 ≠ 0 :=
  ⟨shape_of _ _ rfl rfl (by decide) (by decide +kernel), shape_of _ _ rfl rfl (by decide) (by decide +kernel),
    by decide +kernel, by decide +kernel, by decide +kernel, by decide +kernel, by decide +kernel, by decide +kernel,
    by decide +kernel⟩

theorem wit_PitchOperationMovesSets : PipelineShape holdJob ∧ holdJob.ticket.active = some (tkt 1 7) ∧
    holdJob.ctl.job.running = true ∧ holdJob.ctl.job ≠ .run ∧ 1 + 1 < holdJob.pipe.entries.length ∧
    holdJob.pipe.entries[1]? = some (.set set3) ∧ holdJob.pipe.entries.getLast? = some .blank ∧
    (inJob 1 7 .hold [.blank, .blank, .set set3]).pipe.entries.getLast? = some (.set set3) := by
  refine ⟨⟨⟨?_, ?_⟩, ?_, ?_, ?_, ?_, ?_⟩, rfl, rfl, ?_, ?_, rfl, rfl, rfl⟩
  · intro h; cases h
  · intro h; cases h
  · intro t ht; cases ht; decide +kernel
  · intro _; decide +kernel
  · intro h; cases h
  · decide +kernel
  · intro h; cases h
  · decide
  · decide

/-- In RUN under REMAKE with the oldest set spoiled, and held responses at a PENDING entry. -/
def leaving : State := inJob 2 7 .run [.blank, .blank, .set { set3 with causes := 1 }]

theorem wit_departing :
    (leaving.ctl.job = .run ∧ leaving.spoil.remakes = [] ∧ (tkt 2 7).policy = .remake ∧
      leaving.pipe.entries.getLast? = some (.set { set3 with causes := 1 }) ∧ pendingAtZero leaving = false) ∧
    (tallyCheck (tkt 2 7) (imageChecks (tkt 2 7) leaving.pipe.entries).1).1.getLast? =
      some (.set { set3 with causes := 1 }) ∧
    (pendingAtZero held = true ∧ (feeder held 0).held = true ∧ (feeder held 0).queue = field1 2 :: [] ∧
      (feeder held 1).held = false ∧ ∀ k, (feeder held k).held = true → (feeder held k).cont = none) ∧
    (∀ e ∈ (inJob 1 7 .drain [.blank, .blank, .set set3]).pipe.entries.dropLast, e = .blank) := by decide +kernel

/-- The set decided REMAKE at stage 3 is reopened at stage 4 (R35), and CUE_LOST is raised within the operation (R113). -/
theorem test_remake_reopened_at_once :
    (pitchOperation (tkt 2 7) [(.cueLost, 0, 0)] leaving).pipe.entries[0]? =
      some (.set (openedSet 3 2 set3.values 10 0 0)) ∧
    (pitchOperation (tkt 2 7) [(.cueLost, 0, 0)] leaving).spoil.remakes = [] ∧
    (pitchOperation (tkt 2 7) [(.cueLost, 0, 0)] leaving).spoil.remade = 1 ∧
    (pitchOperation (tkt 2 7) [(.cueLost, 0, 0)] leaving).report.flags.getLsbD FaultKind.cueLost.num = true := by
  decide +kernel

theorem wit_GateDecisionTable :
    set3.causes = 0 ∧ ({ set3 with causes := 1 } : SetEntry).causes ≠ 0 ∧ set3.attempt ≠ 3 ∧
    ({ set3 with attempt := 3 } : SetEntry).attempt = 3 ∧ (idle 1 7).spoil.remakes.length < 32 ∧
    32 ≤ (List.replicate 32 set3.toRemake).length := by decide +kernel

/-- A job in RUN whose S0 is in a state. -/
def drawing (x : StreamState) : State :=
  { inJob 1 7 .run [.blank, .blank, .blank] with
    streams := { each := ⟨x, .cleared, .cleared, .cleared⟩, generator := 1 }
    ctl := { JobControl.cleared with job := .run, inOperation := true } }

theorem wit_OpeningBySource :
    (inJob 1 7 .hold []).ctl.job ≠ .run ∧ (drawing live).ctl.job = .run ∧ (drawing live).spoil.remakes = [] ∧
    ([set3.toRemake] : List RemakeEntry) = set3.toRemake :: [] ∧
    drawAnswer (tkt 1 7) (drawing { live with status := .exhausted }) = .exhausted ∧
    (drawing live).pipe.opened ≠ 0xFFFFFFFF ∧ drawAnswer (tkt 1 7) (drawing { live with inFlight := true }) = .waiting ∧
    drawAnswer (tkt 1 7) (drawing live) = .uncovered ∧
    drawAnswer (tkt 1 7) (drawing { live with limit := some 5 }) = .drawn ∧ (drawing live).ctl.inOperation = true ∧
    (inJob 1 7 .run [pend, .blank, .blank]).pipe.entries[0]? = some (.pending 9 0 0) ∧
    pendingAtZero (inJob 1 7 .run [.blank]) = false := by decide +kernel

/-- Renewals due and not, UNCOVERED's request, room for a request at 39 queued and none at 40, the wait of R137 found. -/
theorem wit_requests :
    renewalAsked (tkt 1 7) (drawing { live with limit := some 5 }) 0 = some 69 ∧
    renewalAsked (tkt 1 7) (drawing { live with limit := some 38 }) 0 = none ∧
    uncoveredLimit (tkt 1 7) (drawing live) 0 = some 68 ∧
    uncoveredLimit (tkt 1 7) (drawing { live with limit := some 4 }) 0 = some 68 ∧
    uncoveredLimit (tkt 1 7) (drawing { live with limit := some 5 }) 0 = none ∧
    RoomFor (fun _ => some 68) (withStore { store with queue := List.replicate 39 (.retire 3) } (drawing live)) 0 ∧
    ¬RoomFor (fun _ => some 68) (withStore { store with queue := List.replicate 40 (.retire 3) } (drawing live)) 0 ∧
    (∀ r ∈ List.replicate 40 (Request.retire 3), (appendBody store r).isSome = true) ∧
    (uncoveredRequests (tkt 1 7) (withStore noSlot (drawing live))).store.fullWait = true ∧
    (drawnRequests (tkt 1 7) (drawing live)).store.fullWait = (drawing live).store.fullWait := by decide +kernel

/-- A draw advances the stream and asks for its renewal. -/
theorem test_draw_renews :
    streamAt (opening (tkt 1 7) (drawing { live with limit := some 5 })).2 0 =
      { live with v := 6, limit := some 5, inFlight := true, requested := 69, drawn := true, firstDrawn := 5,
                  lastDrawn := 5, valuesDrawn := 1 } ∧
    (opening (tkt 1 7) (drawing { live with limit := some 5 })).2.store.queue = [.reservation 0 7 .up 69] := by
  decide +kernel

/-- S0 before its first draw, after a draw of the same value, and after another. -/
theorem wit_SetDrawsActiveStreams :
    live.drawn = false ∧ ({ live with drawn := true, lastDrawn := 5 } : StreamState).lastDrawn = live.v ∧
    ({ live with drawn := true, lastDrawn := 4 } : StreamState).lastDrawn ≠ live.v ∧
    ((tkt 1 7).streams.get 0).active = true ∧ ((tkt 1 7).streams.get 3).active = false := by decide +kernel

theorem wit_DrawAdvancesStream :
    (tkt 1 7).streams.a0.mode ≠ .fixed ∧ nextValid (tkt 1 7).streams.a0 5 = some 6 ∧
    nextValid (tkt 1 7).streams.a0 1000 = none ∧ live.u.toNat + 1 < 2 ∧ (1 : Nat) ≤ live.u.toNat + 1 ∧
    checkPasses .mod11 (proofOf (proofRegister 1 1)) = true ∧
    (∀ i < 1, checkPasses .mod11 (proofOf (proofRegister 1 i)) = false) := by decide +kernel

theorem wit_NextValidIsFirstOnLattice : (tkt 1 7).streams.a0.step ≠ 0 ∧
    nextValid { (tkt 1 7).streams.a0 with skips := [(6, 8)] } 5 = some 9 := by decide +kernel

theorem wit_ReservationLimits :
    (tkt 1 7).streams.a0.step ≠ 0 ∧ initialLimit (tkt 1 7).streams.a0 5 = 68 ∧
    initialLimit (tkt 1 7).streams.a0 938 = 1000 ∧ renewalLimit (tkt 1 7).streams.a0 68 = 132 ∧
    renewalDue (tkt 1 7).streams.a0 { live with v := 36, limit := some 68 } = some 132 ∧
    renewalDue (tkt 1 7).streams.a0 { live with v := 35, limit := some 68 } = none ∧
    renewalDue (tkt 1 7).streams.a0 { live with v := 990, limit := some 1000 } = none := by decide +kernel

/-- IDLE with samples taken; IDLE before the first sample. -/
def sampled : State := idle 1 7

def unsampled : State := { idle 1 7 with lines := LineMonitor.cleared }

theorem wit_LineSampleTaken :
    underReset.resetting = true ∧ unsampled.lines.sampled = false ∧ sampled.lines.sampled = true ∧
    sampled.lines.runs.length = 18 ∧ (sampled.lines.runs.getD 14 0).toNat < (setting sampled 14).debounce ∧
    EdgeAt (BitVec.twoPow 18 14)
      { sampled with lines := { sampled.lines with runs := List.replicate 18 1 } } 14 := by decide +kernel

theorem wit_EdgesRaiseFaults :
    EdgeTaken (inBreak 0) (idle 1 7) ∧ EdgeTaken inJam (idle 1 7) ∧ EdgeTaken (inSplice 0) (inJob 1 7 .run [.set set3]) ∧
    ¬EdgeTaken inJam underReset ∧ ¬EdgeTaken inJam unsampled ∧ ¬EdgeTaken inJam (go .jamEdge (idle 1 7)) ∧
    EdgeTaken inJam { unsampled with lines := { LineMonitor.cleared with raised := [inJam] } } ∧ headPosOf (inJob 1 7 .run [.set set3]) 0 = some 0 := by decide +kernel

theorem wit_LevelInputsAct :
    unsampled.lines.sampled = false ∧ (idle 1 7).lines.sampled = true ∧ (∃ c, failedStore.phase = .failed c) ∧
    (idle 1 7).resetting = false ∧ (idle 1 7).lines.holdreq = false ∧ (setting (idle 1 7) inHoldreq).enabled = true ∧
    (idle 1 7).lines.pwrwarn = false ∧ (setting (idle 1 7) inPwrwarn).enabled = true ∧
    ({ sampled with lines := { sampled.lines with holdreq := true, pwrwarn := true } } : State).lines.pwrwarn = true :=
  ⟨by decide +kernel, by decide +kernel, ⟨.worn, rfl⟩, by decide +kernel, by decide +kernel, by decide +kernel,
    by decide +kernel, by decide +kernel, by decide +kernel⟩

/-- Receiver 1 in a line condition with an assembly. -/
def receiving (l : LineCondition) (a : Assembly) : State :=
  { inJob 1 7 .run [.blank, .set set3, .blank] with
    tally := (Six.const Receiver.cleared).set 0 { Receiver.cleared with line := l, assembly := a } }

theorem wit_ReceiverTakesCharacters :
    ((receiving .hunt .empty).tally.get 0).line = .hunt ∧ ((receiving .ready .empty).tally.get 0).line = .ready ∧
    (0x39 : Byte) = BitVec.ofNat 8 (0x30 + (9 : Fin 10).val) ∧
    ((receiving .ready (.digits (List.replicate 11 1))).tally.get 0).assembly = .digits (List.replicate 11 1) ∧
    ((0x2F : Byte).toNat < 0x30 ∧ 0x39 < (0x3A : Byte).toNat) := by decide +kernel

theorem wit_ReportComparedAtCollator :
    (receiving .ready .empty).ticket.active = some (tkt 1 7) ∧ ((tkt 1 7).plies.get 0).tally = true ∧
    ((tkt 1 7).plies.get 1).enabled = false ∧ entryAt (receiving .ready .empty) (tkt 1 7).collator = .set set3 ∧
    set3.tally.get 0 = .none ∧ set3.values.get ((tkt 1 7).plies.get 0).tallyStream = some 5 ∧
    Agrees false .none 5 [0, 5] ∧ Agrees true .mod7 12 [1, 2, 5] ∧ ¬Agrees true .mod7 5 [5] :=
  ⟨rfl, by decide +kernel, by decide +kernel, by decide +kernel, rfl, by decide +kernel, .inl ⟨rfl, by decide⟩,
    .inr ⟨rfl, [1, 2], 5, rfl, by decide, by decide, by decide⟩, by
      rintro (⟨h, -⟩ | ⟨-, ys, c, h, hy, -⟩)
      · cases h
      · cases ys with
        | nil => exact hy rfl
        | cons a l => simp at h⟩

/-- The store with an operation in flight and its request queued. -/
def appending (op : Operation) (st : Store) : State :=
  { inJob 1 7 .run [.blank, .blank, .blank] with store := { st with
      op := some op
      queue := [.reservation 0 7 .up 68]
      compaction := some { target := 1, todo := [], retried := false } } }

theorem wit_StoreEvents :
    (appending (.append 0 1 2 (.reserve 7 .up 68 true none)) store).store.op =
      some (.append 0 1 2 (.reserve 7 .up 68 true none)) ∧
    (appending (.step 1 0 3 (.header 2)) store).store.compaction = some { target := 1, todo := [], retried := false } ∧
    (appending (.step 1 0 3 (.header 2)) store).store.active = some 0 ∧
    (appending (.erase 2) store).store.op = some (.erase 2) ∧ Sector.wf ((appending (.erase 2) store).store.array.get 2) = true ∧
    (fours.filter fun j => decide (j ≠ 2 ∧ (⟨.active, .bad, .full, .bad⟩ : Four SectorState).get j ≠ .bad)).length < 2 := by
  decide +kernel

/-- The reservation's append in flight, its stream asking for a limit; a compaction with rows to copy. -/
def reserving (requested : Word) : State :=
  { appending (.append 0 1 2 (.reserve 7 .up requested true none)) store with
    streams := { each := ⟨{ live with inFlight := true, requested }, .cleared, .cleared, .cleared⟩, generator := 1 } }

def copying (retried : Bool) (op : Operation) : State :=
  let s := appending op store
  withStore { s.store with compaction := some { target := 1, todo := (rowed .up 9).table, retried } } s

/-- A verified reservation renews at the new limit where 32 steps or fewer remain, and not where 33 do. -/
theorem wit_reservation_completes :
    (reserving 37).store.queue = .reservation 0 7 .up 68 :: [] ∧ pendingAtZero (reserving 37) = false ∧
    (reserving 37).ctl.job ≠ .closing ∧ (reserving 37).ticket.active = some (tkt 1 7) ∧ Booked (tkt 1 7) 0 ∧
    renewalDue ((tkt 1 7).streams.get 0) { live with limit := some 37, requested := 37 } = some 101 ∧
    renewalDue ((tkt 1 7).streams.get 0) { live with limit := some 38, requested := 38 } = none := by decide +kernel

/-- The renewal's request is in the queue; a second failure leaves no limit and no flag. -/
theorem test_reservation_notices :
    streamAt (go (.appendCompletion true) (reserving 37)) 0 =
      { live with limit := some 37, inFlight := true, requested := 101 } ∧
    streamAt (go (.appendCompletion true) (reserving 38)) 0 = { live with limit := some 38, requested := 38 } ∧
    streamAt (go (.appendCompletion false) (withStore { (reserving 37).store with retried := true } (reserving 37))) 0 =
      { live with requested := 37 } ∧
    (go (.appendCompletion true) (withStore (reserving 37).store closing)).ctl.job = .closing := by decide +kernel

/-- A copy in flight, tried once or twice, of a store that may go on; a header. -/
theorem wit_CompactionStepCompletes :
    (copying false (.step 1 1 3 (.copy 7 .up 9 false false none))).store.op =
      some (.step 1 1 3 (.copy 7 .up 9 false false none)) ∧
    (copying true (.step 1 1 3 (.header 2))).store.compaction =
      some { target := 1, todo := (rowed .up 9).table, retried := true } ∧
    store.scanMade = true ∧ store.quiesced = false ∧ ({ store with quiesced := true } : Store).quiesced = true ∧
    (appendBody store (.reservation 0 7 .up 68)).isSome = true ∧ (∀ k, (feeder (copying true (.erase 0)) k).queue = []) ∧
    store.active = some 0 ∧ (0 : SectorId) ≠ 1 := by decide +kernel

/-- The copy verified: the header follows. It failed once: the row is tried in the next slot. Twice: the compaction is
abandoned. -/
theorem test_copy_steps :
    (go (.compactionStepCompletion true) (copying false (.step 1 1 3 (.copy 7 .up 9 false false none)))).store.op =
      some (.step 1 0 2 (.header 2)) ∧
    (go (.compactionStepCompletion false) (copying false (.step 1 1 3 (.copy 7 .up 9 false false none)))).store.op =
      some (.step 1 2 2 (.copy 7 .up 9 false false none)) ∧
    (go (.compactionStepCompletion false) (copying true (.step 1 1 3 (.copy 7 .up 9 false false none)))).store.sectors =
      ⟨.active, .full, .erased, .erased⟩ ∧
    (go (.compactionStepCompletion false) (copying true (.step 1 1 3 (.copy 7 .up 9 false false none)))).store.compaction =
      none := by decide +kernel

/-- A RETIRE pending with its append in flight; a CLOSE with its last close append in flight. -/
def retiring : State := { withStore { rowed .up 9 with op := some (.append 0 1 2 (.retire 7)), queue := [.retire 7] }
    (idle 1 7) with ticket := { TicketBlock.cleared with waiting := some (waitingRetire (cmd 7) (idle 1 7)) } }

def closingLast : State := withStore { rowed .up 9 with
  op := some (.append 0 1 2 (.close 7 .up 9 true)), queue := [.closeAppend 0 7 .up none] } closing

theorem wit_AppendCompletes :
    retiring.ticket.waiting = some (waitingRetire (cmd 7) (idle 1 7)) ∧
    (waitingRetire (cmd 7) (idle 1 7)).kind = .retire ∧ retiring.store.queue = .retire 7 :: [] ∧
    closingLast.store.queue = .closeAppend 0 7 .up none :: [] ∧ closingLast.ctl.job = .closing ∧
    ([] : List Request).any Request.isCloseAppend = false ∧ closingLast.ctl.inOperation = false ∧
    (∀ k, (feeder closingLast k).queue = []) ∧ (waitingClose (cmd 0) (idle 1 7)).kind = .close ∧
    (go (.appendCompletion true) closingLast).ctl.job = .idle ∧
    (go (.appendCompletion true) closingLast).ticket.result.result = .done ∧
    (go (.appendCompletion false) (withStore { closingLast.store with retried := true } closingLast)).ticket.result.result =
      .storeUnavailable := by decide +kernel

theorem wit_StoreChoosesByOrder :
    (store.op = none ∧ store.quiesced = false ∧ store.phase = .inService ∧ store.scanMade = true) ∧
    ({ store with sectors := .const .erased } : Store).active = none ∧
    ({ store with sectors := .const .erased } : Store).lowest .erased = some 0 ∧
    (store.compaction = none ∧ store.active = some 0 ∧ 32 < Sector.free (store.array.get 0)) ∧
    Sector.free ((filled 223 store).array.get 0) = 32 ∧ Sector.free ((filled 222 store).array.get 0) = 33 ∧
    (appendBody store (.reservation 0 7 .up 68) = some (.reserve 7 .up 68 true none) ∧
      Sector.free (store.array.get 0) ≠ 0) ∧
    (noSlot.lowest .erased = none ∧ noSlot.active = some 0 ∧ Sector.free (noSlot.array.get 0) = 0 ∧
      noSlot.lowest .full = some 1) ∧
    appendBody store (.closeAppend 0 7 .up none) = none ∧
    ({ store with sectors := ⟨.active, .full, .full, .erased⟩ } : Store).lowest .full = some 1 ∧
    store.lowest .full = none ∧ State.reset.store.scanMade = false := by decide +kernel

/-- A close append of a book with no row ends CLOSE before the store chooses again. -/
theorem test_rowless_close_ends : (chooseNext (withStore { store with queue := [.closeAppend 0 7 .up none] } closing)).ctl.job
    = .idle := by decide +kernel

theorem wit_RaiseRecordsAndActs :
    actsAs (idle 1 7) .splice = .carryOn ∧ actsAs (idle 1 7) .tokenBad = .hold ∧ actsAs (idle 1 7) .jam = .halt ∧
    (idle 1 7).ctl.inOperation = false ∧ (drawing live).ctl.inOperation = true := by decide +kernel

theorem wit_OutputsFollowState : (idle 1 7).ticket.active = none ∧ (inJob 1 7 .run []).ticket.active = some (tkt 1 7) :=
  ⟨rfl, rfl⟩

end Sys2Proof.Tests
end

section
/-! PROOFS. Check digits (R9 to R12): the digit string read place by place, the weighted sum over all ten places of a word,
and the check result of each method. -/

namespace Sys2Proof.Machine

/-! ## The digit string (R9) -/

theorem digitsFrom_length_le (fuel n : Nat) : (digitsFrom fuel n).length ≤ fuel := by
  induction fuel generalizing n with
  | zero => simp [digitsFrom]
  | succ fuel ih =>
    unfold digitsFrom
    split
    · simp
    · simpa using ih (n / 10)

/-- Place i holds the digit of 10^i; the places beyond the string read 0, as the number's own do. -/
theorem digitsFrom_getD {fuel n : Nat} (hn : n < 10 ^ fuel) (i : Nat) :
    (digitsFrom fuel n).getD i 0 = n / 10 ^ i % 10 := by
  induction fuel generalizing n i with
  | zero =>
    obtain rfl : n = 0 := by simpa using hn
    simp [digitsFrom]
  | succ fuel ih =>
    have place_succ (j : Nat) : n / 10 ^ (j + 1) = n / 10 / 10 ^ j := by rw [pow_succ', Nat.div_div_eq_div_mul]
    unfold digitsFrom
    split
    next one_digit =>
      cases i with
      | zero => simp [Nat.mod_eq_of_lt one_digit]
      | succ j => simp [place_succ, Nat.div_eq_of_lt one_digit]
    next =>
      cases i with
      | zero => simp
      | succ j => simpa [place_succ] using ih (Nat.div_lt_of_lt_mul (pow_succ' 10 fuel ▸ hn)) j

theorem digits_length_le (v : Word) : (digits v).length ≤ 10 := digitsFrom_length_le 10 v.toNat

/-- Ten places hold every 32-bit value. -/
theorem digits_getD (v : Word) (i : Nat) : (digits v).getD i 0 = v.toNat / 10 ^ i % 10 :=
  digitsFrom_getD (v.isLt.trans (by norm_num)) i

/-! ## The weighted sum (R9) -/

/-- Places beyond the digits add nothing, so the sum may run over any number of places that covers them. -/
theorem weighted_eq_sum_range (ws : List Nat) {ds : List Nat} {k : Nat} (hk : ds.length ≤ k) :
    weighted ws ds = ((List.range k).map fun i => ds.getD i 0 * ws.getD (i % ws.length) 0).sum := by
  obtain ⟨m, rfl⟩ := Nat.exists_eq_add_of_le hk
  have beyond_zero : ((List.range m).map fun i =>
      ds.getD (ds.length + i) 0 * ws.getD ((ds.length + i) % ws.length) 0).sum = 0 :=
    List.sum_eq_zero (by simp)
  rw [weighted, List.range_add, List.map_append, List.sum_append, List.map_map]
  exact (Nat.add_eq_left.2 beyond_zero).symm

/-- The weighted sum of a value, from its arithmetic alone. -/
theorem weighted_digits {ws : List Nat} {weight : Nat → Nat} (hw : ∀ i, ws.getD (i % ws.length) 0 = weight i) (v : Word) :
    weighted ws (digits v) = ((List.range 10).map fun i => v.toNat / 10 ^ i % 10 * weight i).sum := by
  simp only [weighted_eq_sum_range ws (digits_length_le v), digits_getD, hw]

/-- MOD10W's weights: position i + 1 is odd where i is even (R10). -/
theorem weights_three_one (i : Nat) : [3, 1].getD (i % 2) 0 = if i % 2 = 0 then 3 else 1 := by
  rcases Nat.mod_two_eq_zero_or_one i with h | h <;> simp [h]

/-- MOD11's weights: 2 to 7 in turn (R11). -/
theorem weights_two_to_seven (i : Nat) : [2, 3, 4, 5, 6, 7].getD (i % 6) 0 = 2 + i % 6 := by
  have in_turn : ∀ r < 6, [2, 3, 4, 5, 6, 7].getD r 0 = 2 + r := by decide
  exact in_turn _ (Nat.mod_lt i (by norm_num))

/-! ## The check results (R10 to R12) -/

theorem checkResult_mod10w (v : Word) : checkResult .mod10w v = some ((10 -
    ((List.range 10).map fun i => v.toNat / 10 ^ i % 10 * (if i % 2 = 0 then 3 else 1)).sum % 10) % 10) := by
  rw [checkResult, weighted_digits weights_three_one]

theorem checkResult_mod11 (v : Word) : checkResult .mod11 v = some ((11 -
    ((List.range 10).map fun i => v.toNat / 10 ^ i % 10 * (2 + i % 6)).sum % 11) % 11) := by
  rw [checkResult, weighted_digits weights_two_to_seven]

/-- Only MOD11 passes a value over, at the result 10 (R11). -/
theorem checkPasses_eq_false_iff (m : CheckMethod) (v : Word) :
    checkPasses m v = false ↔ m = .mod11 ∧ checkResult .mod11 v = some 10 := by
  cases m <;> simp [checkPasses]

/-- Settles O48: the two weighted methods by the sum over the ten places, the others by definition. -/
theorem checkDigitFormulas : Obligations.CheckDigitFormulas := fun v =>
  ⟨rfl, checkResult_mod10w v, checkResult_mod11 v, rfl, fun m => checkPasses_eq_false_iff m v⟩

end Sys2Proof.Machine
end

section
/-! PROOFS. The gate decision (R92 to R96, R99): what a claim on the job state, a record pushed and a fault raised leave of
the spoilage unit and the report block, the row of R92 a set falls in, and what each row does. -/

namespace Sys2Proof.Machine

open Sys2Proof.Safety

/-- The model's saturating increment is the statements' saturating sum with 1 (R96). -/
theorem satSucc_eq_satAdd (w : Word) : satSucc w = satAdd w 1 := by
  have all_ones : (BitVec.allOnes 32).toNat = 0xFFFFFFFF := rfl
  apply BitVec.eq_of_toNat_eq
  unfold satSucc satAdd
  split
  next h => subst h; rfl
  next h =>
    have below : w.toNat ≠ 0xFFFFFFFF := fun e => h (BitVec.eq_of_toNat_eq (e.trans all_ones.symm))
    have one : (1 : Word).toNat = 1 := rfl
    simp only [BitVec.toNat_add, BitVec.toNat_ofNat, one]
    omega

/-! ## What claims leave unchanged (R121 to R123) -/

theorem enterHold_changes (s : State) : ∃ p j, enterHold s = (s.setPipe p).setCtl j :=
  ⟨blanked s.pipe, { s.ctl with job := .hold }, by rw [enterHold, blankPending_eq]; rfl⟩

theorem enterDrain_changes (s : State) : ∃ p j, enterDrain s = (s.setPipe p).setCtl j :=
  ⟨blanked s.pipe, { s.ctl with job := .drain }, by rw [enterDrain, blankPending_eq]; rfl⟩

theorem enterHalted_changes (kind : FaultKind) (ply : BitVec 3) (serial : Word) (s : State) :
    ∃ p j, enterHalted kind ply serial s = (s.setPipe p).setCtl j :=
  ⟨(enterHalted kind ply serial s).pipe, (enterHalted kind ply serial s).ctl, by
    rw [enterHalted, blankPending_eq]; rfl⟩

theorem holdTest_changes (s : State) : ∃ p j, holdTest s = (s.setPipe p).setCtl j := by
  unfold holdTest
  split
  · exact enterHold_changes s
  · exact ⟨s.pipe, s.ctl, rfl⟩

/-- Only the drained notice, which enters READY, reaches a block other than the pipeline and job control. -/
theorem applyClaim_changes {c : Claim} (hc : c ≠ .drained) (s : State) :
    ∃ p j, applyClaim c s = (s.setPipe p).setCtl j := by
  have unchanged : ∃ p j, s = (s.setPipe p).setCtl j := ⟨s.pipe, s.ctl, rfl⟩
  cases c with
  | action kind ply serial act =>
    cases act with
    | carryOn => exact unchanged
    | hold =>
      simp only [applyClaim]
      split
      · exact enterHold_changes (s.setCtl { s.ctl with fault := true })
      · exact unchanged
    | halt =>
      simp only [applyClaim]
      split
      · exact enterHalted_changes kind ply serial s
      · exact unchanged
  | exhausted =>
    simp only [applyClaim]
    split
    · exact enterDrain_changes s
    · exact unchanged
  | drained => exact absurd rfl hc
  | queueHigh => exact holdTest_changes s

theorem claim_changes {c : Claim} (hc : c ≠ .drained) (s : State) : ∃ p j, claim c s = (s.setPipe p).setCtl j := by
  unfold claim
  split
  · exact ⟨s.pipe, _, rfl⟩
  · exact applyClaim_changes hc s

theorem claim_spoil {c : Claim} (hc : c ≠ .drained) (s : State) : (claim c s).spoil = s.spoil := by
  obtain ⟨p, j, h⟩ := claim_changes hc s
  simp [h]

theorem claim_report {c : Claim} (hc : c ≠ .drained) (s : State) : (claim c s).report = s.report := by
  obtain ⟨p, j, h⟩ := claim_changes hc s
  simp [h]

/-! ## A record pushed and a fault raised (R172, R179) -/

@[simp] theorem pushRecord_spoil (r : Record) (s : State) : (pushRecord r s).spoil = s.spoil := by
  simp only [pushRecord]
  split
  · rw [claim_spoil (by decide), State.setReport_spoil]
  · rfl

@[simp] theorem pushRecord_report (r : Record) (s : State) :
    (pushRecord r s).report = { s.report with queue := s.report.queue ++ [r] } := by
  simp only [pushRecord]
  split
  · rw [claim_report (by decide), State.setReport_report]
  · rfl

@[simp] theorem raise_spoil (kind : FaultKind) (ply : BitVec 3) (serial : Word) (s : State) :
    (raise kind ply serial s).spoil = s.spoil := by
  rw [raise, claim_spoil (by simp)]
  rfl

@[simp] theorem raise_queue (kind : FaultKind) (ply : BitVec 3) (serial : Word) (s : State) :
    (raise kind ply serial s).report.queue = s.report.queue := by
  rw [raise, claim_report (by simp)]
  rfl

@[simp] theorem raise_flags (kind : FaultKind) (ply : BitVec 3) (serial : Word) (s : State) :
    (raise kind ply serial s).report.flags = s.report.flags ||| kind.bit := by
  rw [raise, claim_report (by simp)]
  rfl

/-! ## The row of R92 a set falls in -/

section
variable {e : SetEntry} {listed : Nat}

theorem decisionOf_clean (p : Policy) (h : e.causes = 0) :
    decisionOf p listed e = .pass (if p = .proof then .proofGood else .good) := by
  unfold decisionOf
  rw [if_pos h]
  cases p <;> rfl

theorem decisionOf_divert {p : Policy} (h : e.causes ≠ 0) (hp : p = .void ∨ p = .proof) :
    decisionOf p listed e = .divert (if p = .proof then .proofVoid else .void) := by
  unfold decisionOf
  rw [if_neg h]
  rcases hp with rfl | rfl <;> rfl

/-- The attempt test comes before the list test (R92). -/
theorem decisionOf_spoiled_remake (h : e.causes ≠ 0) : decisionOf .remake listed e =
    if e.attempt = 3 then .limit else if 32 ≤ listed then .full else .remake := by
  unfold decisionOf
  rw [if_neg h]
  rfl

theorem decisionOf_limit (h : e.causes ≠ 0) (ha : e.attempt = 3) : decisionOf .remake listed e = .limit := by
  rw [decisionOf_spoiled_remake h, if_pos ha]

theorem decisionOf_full (h : e.causes ≠ 0) (ha : e.attempt ≠ 3) (hl : 32 ≤ listed) :
    decisionOf .remake listed e = .full := by
  rw [decisionOf_spoiled_remake h, if_neg ha, if_pos hl]

theorem decisionOf_remake (h : e.causes ≠ 0) (ha : e.attempt ≠ 3) (hl : listed < 32) :
    decisionOf .remake listed e = .remake := by
  rw [decisionOf_spoiled_remake h, if_neg ha, if_neg (by omega)]

end

/-! ## What each row does (R92, R93, R95, R96, R99) -/

theorem decideEntry_blank (p : Policy) (s : State) : decideEntry p .blank s =
    { s with spoil := { s.spoil with gate := true, blank := satAdd s.spoil.blank 1 } } := by
  rw [← satSucc_eq_satAdd]
  rfl

section
variable {p : Policy} {e : SetEntry} {s : State}

theorem decideEntry_pass {kind : SetKind} (h : decisionOf p s.spoil.remakes.length e = .pass kind) :
    (decideEntry p (.set e) s).spoil = { s.spoil with gate := false, good := satAdd s.spoil.good 1 } ∧
    (decideEntry p (.set e) s).report = { s.report with queue := s.report.queue ++
      [.ofSet kind e.serial e.attempt e.stamp e.causes e.plies e.values] } := by
  simp [decideEntry, decideSet, h, SetEntry.record, satSucc_eq_satAdd]

theorem decideEntry_divert {kind : SetKind} (h : decisionOf p s.spoil.remakes.length e = .divert kind) :
    (decideEntry p (.set e) s).spoil = { s.spoil with gate := true, void := satAdd s.spoil.void 1 } ∧
    (decideEntry p (.set e) s).report = { s.report with queue := s.report.queue ++
      [.ofSet kind e.serial e.attempt e.stamp e.causes e.plies e.values] } := by
  simp [decideEntry, decideSet, h, SetEntry.record, satSucc_eq_satAdd]

theorem decideEntry_remake (h : decisionOf p s.spoil.remakes.length e = .remake) :
    (decideEntry p (.set e) s).spoil = { s.spoil with
      gate := true
      remade := satAdd s.spoil.remade 1
      remakes := s.spoil.remakes ++ [e.toRemake] } ∧
    (decideEntry p (.set e) s).report = { s.report with queue := s.report.queue ++
      [.ofSet .remake e.serial e.attempt e.stamp e.causes e.plies e.values] } := by
  simp [decideEntry, decideSet, h, SetEntry.record, satSucc_eq_satAdd]

theorem decideEntry_limit (h : decisionOf p s.spoil.remakes.length e = .limit) :
    (decideEntry p (.set e) s).spoil = { s.spoil with gate := true, void := satAdd s.spoil.void 1 } ∧
    (decideEntry p (.set e) s).report.queue = s.report.queue ++ [e.record .void Cause.remakeLimit.bit] ∧
    (decideEntry p (.set e) s).report.flags = s.report.flags ||| FaultKind.remakeLimit.bit := by
  simp [decideEntry, decideSet, h, satSucc_eq_satAdd]

theorem decideEntry_full (h : decisionOf p s.spoil.remakes.length e = .full) :
    (decideEntry p (.set e) s).spoil = { s.spoil with gate := true, void := satAdd s.spoil.void 1 } ∧
    (decideEntry p (.set e) s).report.queue = s.report.queue ++ [e.record .void Cause.remakeFull.bit] ∧
    (decideEntry p (.set e) s).report.flags = s.report.flags ||| FaultKind.remakeFull.bit := by
  simp [decideEntry, decideSet, h, satSucc_eq_satAdd]

/-- A clean set leaves an empty cause set in its record (R93). -/
theorem decideEntry_clean (h : e.causes = 0) :
    (decideEntry p (.set e) s).spoil = { s.spoil with gate := false, good := satAdd s.spoil.good 1 } ∧
    (decideEntry p (.set e) s).report = { s.report with queue := s.report.queue ++
      [.ofSet (if p = .proof then .proofGood else .good) e.serial e.attempt e.stamp 0 e.plies e.values] } := by
  have decided := decideEntry_pass (s := s) (decisionOf_clean p h)
  rwa [h] at decided

end

/-- Settles O42: the row of R92 the entry falls in, and what that row does. -/
theorem gateDecisionTable : Obligations.GateDecisionTable := fun s _ =>
  ⟨fun p => decideEntry_blank p s,
    fun _ clean => decideEntry_clean clean,
    fun _ spoiled policy => decideEntry_divert (decisionOf_divert spoiled policy),
    fun spoiled =>
      ⟨fun attempt room => decideEntry_remake (decisionOf_remake spoiled attempt room),
        fun attempt => decideEntry_limit (decisionOf_limit spoiled attempt),
        fun attempt noRoom => decideEntry_full (decisionOf_full spoiled attempt noRoom)⟩⟩

end Sys2Proof.Machine
end

section
/-! PROOFS. What one step is: the cases of the completions, the scan and the resets; every command completes (O2), and a
step keeps the array's canonical form (O4) and the pipeline's shape (O5). -/

namespace Sys2Proof.Machine

open Sys2Proof.Safety

/-! ## The cases of the commands that end an operation, scan or reset -/

/-- The commands that neither reset the part, nor scan, nor end an operation of the array. -/
def Ordinary (c : Instr) : Prop :=
  (∀ b cut, c ≠ .powerOnReset b cut) ∧ (∀ cut, c ≠ .warmReset cut) ∧ c ≠ .recoveryScan ∧
    (∀ v, c ≠ .appendCompletion v) ∧ (∀ v, c ≠ .compactionStepCompletion v) ∧ ∀ r, c ≠ .eraseCompletion r

/-- Every command is an ordinary one or one of the six others. -/
theorem ordinary_or (c : Instr) : Ordinary c ∨ (∃ b cut, c = .powerOnReset b cut) ∨ (∃ cut, c = .warmReset cut) ∨
    c = .recoveryScan ∨ (∃ v, c = .appendCompletion v) ∨ (∃ v, c = .compactionStepCompletion v) ∨
    ∃ r, c = .eraseCompletion r := by
  cases c <;> simp [Ordinary]

theorem exec_keeps_of_ordinary {c : Instr} {s t : State} (hc : Ordinary c) (h : exec c s = .next t) : Keeps s t :=
  exec_keeps c s t h hc.1 hc.2.1 hc.2.2.1 hc.2.2.2.1 hc.2.2.2.2.1 hc.2.2.2.2.2

theorem exec_powerOnReset (straps : Byte) (cut : Cut) (s : State) :
    exec (.powerOnReset straps cut) s = .next (resetTo straps .cleared cut (begin s)) := rfl

theorem exec_warmReset (cut : Cut) (s : State) :
    exec (.warmReset cut) s = .next (resetTo s.path.wbase (Report.warm s.report) cut (begin s)) := rfl

theorem exec_recoveryScan (s : State) : exec .recoveryScan s =
    .next (if s.resetting || s.store.scanMade then begin s else scan (begin s)) := rfl

theorem exec_appendCompletion {s : State} {i : SectorId} {n : Nat} {seq : Word} {body : EntryBody} (v : Bool)
    (h : s.store.op = some (.append i n seq body)) : exec (.appendCompletion v) s = .next (finishOperation seq
      (appendVerified body v (writeSlot i n { seq, body, sound := v } (begin s)))) := by
  simp only [exec, execAppendCompletion, begin, State.setBus_store, h]

theorem exec_stepCompletion {s : State} {i : SectorId} {n : Nat} {seq : Word} {body : EntryBody} {c : Compaction}
    (v : Bool) (h : s.store.op = some (.step i n seq body)) (hc : s.store.compaction = some c) :
    exec (.compactionStepCompletion v) s = .next (finishOperation seq
      ((writeSlot i n { seq, body, sound := v } (begin s)).setStore
        (stepVerified c body v (writeSlot i n { seq, body, sound := v } (begin s)).store))) := by
  simp only [exec, execCompactionStepCompletion, begin, State.setBus_store, h, hc]

theorem exec_eraseCompletion {s : State} {i : SectorId} (r : EraseResult) (h : s.store.op = some (.erase i)) :
    exec (.eraseCompletion r) s =
      .next (finishErase r ((begin s).setStore { eraseVerified i r s.store with op := none })) := by
  simp only [exec, execEraseCompletion, begin, State.setBus_store, h]

/-- An append's completion finds an append in flight, or is none. -/
theorem appendCompletion_cases {v : Bool} {s t : State} (h : exec (.appendCompletion v) s = .next t) : t = begin s ∨
    ∃ i n seq body, s.store.op = some (.append i n seq body) ∧ t = finishOperation seq
      (appendVerified body v (writeSlot i n { seq, body, sound := v } (begin s))) := by
  match ho : s.store.op with
  | some (.append i n seq body) =>
    rw [exec_appendCompletion v ho] at h
    exact .inr ⟨i, n, seq, body, rfl, (Host.Outcome.next.inj h).symm⟩
  | some (.step ..) | some (.erase _) | none =>
    left
    simp only [exec, execAppendCompletion, begin, State.setBus_store, ho] at h
    exact (Host.Outcome.next.inj h).symm

/-- A compaction step's completion finds one in flight, or is none. -/
theorem stepCompletion_cases {v : Bool} {s t : State} (h : exec (.compactionStepCompletion v) s = .next t) : t = begin s ∨
    ∃ i n seq body c, s.store.op = some (.step i n seq body) ∧ s.store.compaction = some c ∧ t = finishOperation seq
      ((writeSlot i n { seq, body, sound := v } (begin s)).setStore
        (stepVerified c body v (writeSlot i n { seq, body, sound := v } (begin s)).store)) := by
  match ho : s.store.op, hc : s.store.compaction with
  | some (.step i n seq body), some c =>
    rw [exec_stepCompletion v ho hc] at h
    exact .inr ⟨i, n, seq, body, c, rfl, rfl, (Host.Outcome.next.inj h).symm⟩
  | some (.step ..), none | some (.append ..), _ | some (.erase _), _ | none, _ =>
    left
    simp only [exec, execCompactionStepCompletion, begin, State.setBus_store, ho, hc] at h
    exact (Host.Outcome.next.inj h).symm

/-- An erase's completion finds one in flight, or is none. -/
theorem eraseCompletion_cases {r : EraseResult} {s t : State} (h : exec (.eraseCompletion r) s = .next t) : t = begin s ∨
    ∃ i, s.store.op = some (.erase i) ∧
      t = finishErase r ((begin s).setStore { eraseVerified i r s.store with op := none }) := by
  match ho : s.store.op with
  | some (.erase i) =>
    rw [exec_eraseCompletion r ho] at h
    exact .inr ⟨i, rfl, (Host.Outcome.next.inj h).symm⟩
  | some (.append ..) | some (.step ..) | none =>
    left
    simp only [exec, execEraseCompletion, begin, State.setBus_store, ho] at h
    exact (Host.Outcome.next.inj h).symm

/-- What a completion's programming keeps of the commands' queue. -/
theorem writeSlot_pending (i : SectorId) (n : Nat) (x : Slot) (s : State) : (writeSlot i n x s).pending = s.pending := rfl

/-! ## Every command completes -/

theorem exec_next (c : Instr) (s : State) : ∃ t, exec c s = .next t := by
  cases c <;> exact ⟨_, rfl⟩

theorem resetTo_pending (b : Byte) (r : Report) (cut : Cut) (s : State) : (resetTo b r cut s).pending = s.pending :=
  (releaseAllRaw_keeps s).pending

theorem exec_pending {c : Instr} {s t : State} (h : exec c s = .next t) : t.pending = s.pending := by
  rcases ordinary_or c with hc | ⟨b, cut, rfl⟩ | ⟨cut, rfl⟩ | rfl | ⟨v, rfl⟩ | ⟨v, rfl⟩ | ⟨r, rfl⟩
  · exact (exec_keeps_of_ordinary hc h).pending
  · cases h
    exact resetTo_pending ..
  · cases h
    exact resetTo_pending ..
  · obtain rfl := Host.Outcome.next.inj h
    dsimp only
    split
    · rfl
    · exact (scan_keeps _).pending
  · rcases appendCompletion_cases h with rfl | ⟨i, n, seq, body, -, rfl⟩
    · rfl
    · exact ((appendVerified_keeps ..).trans (finishOperation_keeps ..)).pending
  · rcases stepCompletion_cases h with rfl | ⟨i, n, seq, body, c, -, -, rfl⟩
    · rfl
    · exact (finishOperation_keeps ..).pending
  · rcases eraseCompletion_cases h with rfl | ⟨i, -, rfl⟩
    · rfl
    · exact (finishErase_keeps ..).pending

/-- Settles O1: the step's own equation. -/
theorem stepTakesFrontCommand : Obligations.StepTakesFrontCommand := fun _ _ _ => rfl

/-- Settles O2: every meaning answers a next state, and none reaches the queue of commands. -/
theorem everyCommandCompletes : Obligations.EveryCommandCompletes := fun c s => by
  obtain ⟨t, h⟩ := exec_next c s
  exact ⟨t, h, exec_pending h⟩

/-- A step does nothing, or runs the command at the front of the queue on the state with the queue's rest. -/
theorem step_cases {s t : State} (h : step s = .next t) :
    t = s ∨ ∃ c rest, s.pending = c :: rest ∧ exec c { s with pending := rest } = .next t := by
  unfold step at h
  split at h
  · exact .inl (Host.Outcome.next.inj h).symm
  next c rest hp => exact .inr ⟨c, rest, hp, h⟩

/-! ## The array's canonical form -/

theorem exec_arrayWf {c : Instr} {s t : State} (hw : arrayWf s.store.array = true) (h : exec c s = .next t) :
    arrayWf t.store.array = true := by
  rcases ordinary_or c with hc | ⟨b, cut, rfl⟩ | ⟨cut, rfl⟩ | rfl | ⟨v, rfl⟩ | ⟨v, rfl⟩ | ⟨r, rfl⟩
  · rwa [(exec_keeps_of_ordinary hc h).array]
  · cases h
    exact cutArray_wf cut (by rwa [(releaseAllRaw_keeps _).array])
  · cases h
    exact cutArray_wf cut (by rwa [(releaseAllRaw_keeps _).array])
  · obtain rfl := Host.Outcome.next.inj h
    dsimp only
    split
    · exact hw
    · rwa [(scan_keeps _).array]
  · rcases appendCompletion_cases h with rfl | ⟨i, n, seq, body, -, rfl⟩
    · exact hw
    · rw [((appendVerified_keeps ..).trans (finishOperation_keeps ..)).array]
      exact writeSlot_wf _ _ _ hw
  · rcases stepCompletion_cases h with rfl | ⟨i, n, seq, body, c, -, -, rfl⟩
    · exact hw
    · rw [(finishOperation_keeps ..).array, State.setStore_store, (stepVerified_keeps ..).array]
      exact writeSlot_wf _ _ _ hw
  · rcases eraseCompletion_cases h with rfl | ⟨i, -, rfl⟩
    · exact hw
    · rw [(finishErase_keeps ..).array]
      exact eraseVerified_wf _ _ hw

/-- Settles O4: the operations that reach the array are a programming, an erase and a reset's cut, and each keeps the
form. -/
theorem arrayFormKeptByStep : Obligations.ArrayFormKeptByStep := fun s t hw h => by
  rcases step_cases h with rfl | ⟨c, rest, -, h⟩
  · exact hw
  · exact exec_arrayWf (s := { s with pending := rest }) hw h

/-! ## The pipeline's shape -/

theorem writeSlot_moves (i : SectorId) (n : Nat) (x : Slot) (s : State) : Moves s (writeSlot i n x s) := .setStore _

theorem takeCue_sound {s : State} (h : Sound s) : Sound (takeCue s) := by
  unfold takeCue
  split
  · exact pitch_sound _ h
  · split
    · exact h
    · split
      · exact (Moves.setTimer _).outside h
      · exact pitch_sound _ h

theorem deadline_sound (t : Ticket) {s : State} (h : Sound s) : Sound (deadline t s) := by
  have timed : Sound (s.setTimer { s.timer with deadlineMade := true }) := (Moves.setTimer _).outside h
  unfold deadline
  dsimp only
  split
  · exact settle_sound ((deadlineCheck_moves ..).outside timed)
  · exact timed

theorem raise_settle_sound (kind : FaultKind) (ply : BitVec 3) {s : State} (h : Sound s) :
    Sound (settle (raise kind ply 0 s)) := settle_sound ((raise_moves ..).outside h)

/-- A full write of the command word, whatever its code. -/
theorem write_sound (code : Byte) (w : CommandWrite) {s : State} (h : Sound s) :
    Sound (writeCommand code (commandOf code) w s) := writeCommand_sound code (fun tag _ => commandOf_sound code tag) w h

theorem exec_sound {c : Instr} {s t : State} (hs : Sound s) (h : exec c s = .next t) : Sound t := by
  have hb : Sound (begin s) := (begin_moves s).outside hs
  cases c with
  | spliceEdge k => exact onEdge_sound _ (fun _ => spliceTaken_sound k) hs h
  | breakEdge k => exact onEdge_sound _ (fun _ => raise_settle_sound .webBreak _) hs h
  | jamEdge => exact onEdge_sound _ (fun _ => raise_settle_sound .jam _) hs h
  | cueEdge => exact onEdge_sound _ (fun _ => takeCue_sound) hs h
  | appendCompletion v =>
    rcases appendCompletion_cases h with rfl | ⟨i, n, seq, body, -, rfl⟩
    · exact hb
    · exact finishOperation_sound _ (appendVerified_sound _ _ ((writeSlot_moves ..).outside hb))
  | compactionStepCompletion v =>
    rcases stepCompletion_cases h with rfl | ⟨i, n, seq, body, c, -, -, rfl⟩
    · exact hb
    · exact finishOperation_sound _ ((Moves.setStore _).outside ((writeSlot_moves ..).outside hb))
  | eraseCompletion r =>
    rcases eraseCompletion_cases h with rfl | ⟨i, -, rfl⟩
    · exact hb
    · exact finishErase_sound _ ((Moves.setStore _).outside hb)
  | load w => cases h; exact write_sound 1 w hb
  | start w => cases h; exact write_sound 2 w hb
  | stop w => cases h; exact write_sound 3 w hb
  | hold w => cases h; exact write_sound 4 w hb
  | resume w => cases h; exact write_sound 5 w hb
  | abort w => cases h; exact write_sound 6 w hb
  | close w => cases h; exact write_sound 7 w hb
  | spoil w => cases h; exact write_sound 8 w hb
  | retire w => cases h; exact write_sound 9 w hb
  | ack w => cases h; exact write_sound 10 w hb
  | clearHistory w => cases h; exact write_sound 11 w hb
  | unknownCommand code w => cases h; exact write_sound code w hb
  | partialCommandWrite c a1 a2 => cases h; exact writeAccess_sound _ _ hb
  | stagingWrite a ws => cases h; exact writeAccess_sound _ _ hb
  | popWordRead r => cases h; exact (controllerResponse_moves ..).outside hb
  | powerOnReset b cut => cases h; exact resetTo_sound ..
  | warmReset cut => cases h; exact resetTo_sound ..
  | headFeederAccess k a =>
    obtain rfl := Host.Outcome.next.inj h
    dsimp only
    split
    · exact (passDown_moves ..).outside hb
    · exact (countAccess_moves ..).outside ((passDown_moves ..).outside hb)
  | readResponse k r =>
    obtain rfl := Host.Outcome.next.inj h
    dsimp only
    split
    · exact (sendUp_moves ..).outside hb
    · exact settle_sound ((setFeeder_moves ..).outside hb)
  | bindWaitExpiry k =>
    obtain rfl := Host.Outcome.next.inj h
    dsimp only
    split
    · exact settle_sound (bindExpire_sound k hb)
    · exact hb
  | encEdge rising =>
    obtain rfl := Host.Outcome.next.inj h
    dsimp only [countEncoder]
    split
    · exact hb
    · split
      · exact (Moves.setTimer _).outside hb
      · exact hb
  | pitchEvent =>
    obtain rfl := Host.Outcome.next.inj h
    dsimp only
    split
    · split
      · exact pitch_sound _ hb
      · exact hb
    · exact hb
  | syntheticPitchEvent =>
    obtain rfl := Host.Outcome.next.inj h
    dsimp only
    split
    · split
      · exact pitch_sound _ hb
      · exact hb
    · exact hb
  | deadlineEvent =>
    obtain rfl := Host.Outcome.next.inj h
    dsimp only
    split
    · split
      · exact deadline_sound _ hb
      · exact hb
    · exact hb
  | lineSample levels =>
    obtain rfl := Host.Outcome.next.inj h
    split
    · exact hb
    · exact (sampleLines_moves ..).outside hb
  | holdreqChange active =>
    obtain rfl := Host.Outcome.next.inj h
    dsimp only
    split
    · exact hb
    · exact settle_sound (holdreqTo_sound _ ((takeLevel_moves ..).outside hb))
  | pwrwarnActive =>
    obtain rfl := Host.Outcome.next.inj h
    dsimp only
    split
    · exact hb
    · exact settle_sound ((powerActive_moves _).outside ((takeLevel_moves ..).outside hb))
  | pwrwarnInactive =>
    obtain rfl := Host.Outcome.next.inj h
    dsimp only
    split
    · exact hb
    · exact settle_sound (chooseIfLeft_sound _ ((powerInactive_moves _).outside ((takeLevel_moves ..).outside hb)))
  | tallyCharacter k b stop =>
    obtain rfl := Host.Outcome.next.inj h
    dsimp only
    split
    · exact hb
    · split
      · exact takeCharacter_sound _ _ hb
      · exact (Moves.setTally _).outside hb
  | tallyLineIdleSeen k =>
    obtain rfl := Host.Outcome.next.inj h
    dsimp only
    split
    · exact (Moves.setTally _).outside hb
    · exact hb
  | recoveryScan =>
    obtain rfl := Host.Outcome.next.inj h
    dsimp only
    split
    · exact hb
    · exact scan_sound hb

/-- Settles O5: every command keeps the shape between operations, and its pitch operation ends with the shape again. -/
theorem pipelineShapeKeptByStep : Obligations.PipelineShapeKeptByStep := fun s t settled shape h => by
  rcases step_cases h with rfl | ⟨c, rest, -, h⟩
  · exact ⟨settled, shape⟩
  · exact exec_sound (s := { s with pending := rest })
      ⟨settled, shape_of_eq (s := s) rfl rfl rfl shape⟩ h

end Sys2Proof.Machine
end

section
/-! PROOFS. The commands of the press controller: how a command is taken (O11, O12), the refusals of LOAD (O15, O16, O17),
STOP, HOLD and RESUME (O21, O22), SPOIL (O25), ACK and CLEAR_HISTORY (O27). -/

namespace Sys2Proof.Machine

open Sys2Proof.Safety

/-! ## The first of an ordered list -/

section
variable {α : Type} {R : α → α → Prop}

/-- In an ordered list the search finds the member that holds and that none before it does. -/
theorem find?_eq_first {p : α → Bool} {l : List α} {a : α} (sorted : l.Pairwise R) (mem : a ∈ l) (hit : p a = true)
    (before : ∀ b ∈ l, R b a → p b = false) : l.find? p = some a := by
  induction l with
  | nil => cases mem
  | cons x l ih =>
    obtain ⟨hx, hl⟩ := List.pairwise_cons.1 sorted
    rcases List.mem_cons.1 mem with rfl | mem
    · exact List.find?_cons_of_pos hit
    · rw [List.find?_cons_of_neg (by simp [before x List.mem_cons_self (hx a mem)])]
      exact ih hl mem fun b hb => before b (List.mem_cons_of_mem _ hb)

/-- The same for the first member that gives a value. -/
theorem findSome?_eq_first {β : Type} {f : α → Option β} {l : List α} {a : α} {y : β} (sorted : l.Pairwise R)
    (mem : a ∈ l) (hit : f a = some y) (before : ∀ b ∈ l, R b a → f b = none) : l.findSome? f = some y := by
  induction l with
  | nil => cases mem
  | cons x l ih =>
    obtain ⟨hx, hl⟩ := List.pairwise_cons.1 sorted
    rcases List.mem_cons.1 mem with rfl | mem
    · simp [hit]
    · rw [List.findSome?_cons, before x List.mem_cons_self (hx a mem)]
      exact ih hl mem fun b hb => before b (List.mem_cons_of_mem _ hb)

end

theorem mem_fours (i : Fin 4) : i ∈ fours := by fin_cases i <;> decide

theorem mem_plies (k : Fin 6) : k ∈ plies := by fin_cases k <;> decide

theorem fours_sorted : fours.Pairwise (· < ·) := by decide

theorem plies_sorted : plies.Pairwise (· < ·) := by decide

/-- The lowest stream or sector with a property. -/
theorem find?_fours {p : Fin 4 → Bool} {i : Fin 4} (hit : p i = true) (before : ∀ j < i, p j = false) :
    fours.find? p = some i :=
  find?_eq_first fours_sorted (mem_fours i) hit fun j _ => before j

/-- The lowest ply with a property. -/
theorem find?_plies {p : Fin 6 → Bool} {k : Fin 6} (hit : p k = true) (before : ∀ j < k, p j = false) :
    plies.find? p = some k :=
  find?_eq_first plies_sorted (mem_plies k) hit fun j _ => before j

theorem Six.mem_toList {α : Type} (v : Six α) (x : α) : x ∈ v.toList ↔ ∃ k, v.get k = x := by
  simp only [Six.toList, List.mem_cons, List.not_mem_nil, or_false]
  constructor
  · rintro (rfl | rfl | rfl | rfl | rfl | rfl)
    exacts [⟨0, rfl⟩, ⟨1, rfl⟩, ⟨2, rfl⟩, ⟨3, rfl⟩, ⟨4, rfl⟩, ⟨5, rfl⟩]
  · rintro ⟨k, rfl⟩
    fin_cases k <;> simp [Six.get]

/-! ## How a command is taken (R51, R162, R163) -/

/-- The answer of a command, in the statements' words. -/
theorem answer_eq (code tag : Byte) (r : ResultCode) (check : BitVec 3) (detail : Word) (s : State) :
    answer code tag r check detail s = withResult code tag r check detail s := rfl

section
variable (code : Byte) (w : CommandWrite) (s : State)

@[simp] theorem arrived_path : (arrived code w s).path = s.path := rfl
@[simp] theorem arrived_staged : (arrived code w s).ticket.staged = s.ticket.staged := rfl
@[simp] theorem arrived_active : (arrived code w s).ticket.active = s.ticket.active := rfl
@[simp] theorem arrived_waiting : (arrived code w s).ticket.waiting = s.ticket.waiting := rfl
@[simp] theorem arrived_arg1 : (arrived code w s).ticket.arg1 = shadow s.ticket.arg1 w.arg1 := rfl
@[simp] theorem arrived_arg2 : (arrived code w s).ticket.arg2 = shadow s.ticket.arg2 w.arg2 := rfl
@[simp] theorem arrived_streams : (arrived code w s).streams = s.streams := rfl
@[simp] theorem arrived_pipe : (arrived code w s).pipe = s.pipe := rfl
@[simp] theorem arrived_tally : (arrived code w s).tally = s.tally := rfl
@[simp] theorem arrived_spoil : (arrived code w s).spoil = s.spoil := rfl
@[simp] theorem arrived_lines : (arrived code w s).lines = s.lines := rfl
@[simp] theorem arrived_timer : (arrived code w s).timer = s.timer := rfl
@[simp] theorem arrived_ctl : (arrived code w s).ctl = s.ctl := rfl
@[simp] theorem arrived_store : (arrived code w s).store = s.store := rfl
@[simp] theorem arrived_report : (arrived code w s).report = s.report := rfl
@[simp] theorem arrived_resetting : (arrived code w s).resetting = s.resetting := rfl

end

section
variable {w : CommandWrite} {s : State}

theorem exec_load (h : Takes w s) : exec (.load w) s = .next (loadCommand w.tag (arrived 1 w s)) :=
  congrArg _ (command_taken 1 _ w s h)
theorem exec_start (h : Takes w s) : exec (.start w) s = .next (startCommand w.tag (arrived 2 w s)) :=
  congrArg _ (command_taken 2 _ w s h)
theorem exec_stop (h : Takes w s) : exec (.stop w) s = .next (stopCommand w.tag (arrived 3 w s)) :=
  congrArg _ (command_taken 3 _ w s h)
theorem exec_hold (h : Takes w s) : exec (.hold w) s = .next (holdCommand w.tag (arrived 4 w s)) :=
  congrArg _ (command_taken 4 _ w s h)
theorem exec_resume (h : Takes w s) : exec (.resume w) s = .next (resumeCommand w.tag (arrived 5 w s)) :=
  congrArg _ (command_taken 5 _ w s h)
theorem exec_abort (h : Takes w s) : exec (.abort w) s = .next (abortCommand w.tag (arrived 6 w s)) :=
  congrArg _ (command_taken 6 _ w s h)
theorem exec_close (h : Takes w s) : exec (.close w) s = .next (closeCommand w.tag (arrived 7 w s)) :=
  congrArg _ (command_taken 7 _ w s h)
theorem exec_spoil (h : Takes w s) : exec (.spoil w) s = .next (spoilCommand w.tag (arrived 8 w s)) :=
  congrArg _ (command_taken 8 _ w s h)
theorem exec_retire (h : Takes w s) : exec (.retire w) s = .next (retireCommand w.tag (arrived 9 w s)) :=
  congrArg _ (command_taken 9 _ w s h)
theorem exec_ack (h : Takes w s) : exec (.ack w) s = .next (ackCommand w.tag (arrived 10 w s)) :=
  congrArg _ (command_taken 10 _ w s h)
theorem exec_clearHistory (h : Takes w s) :
    exec (.clearHistory w) s = .next (clearHistoryCommand w.tag (arrived 11 w s)) :=
  congrArg _ (command_taken 11 _ w s h)

end

theorem commandOf_unknown {code : Byte} (h : ¬(1 ≤ code.toNat ∧ code.toNat ≤ 11)) :
    commandOf code = unknownAnswer code := by
  have other : ∀ c : Byte, 1 ≤ c.toNat ∧ c.toNat ≤ 11 → code ≠ c := by
    rintro c hc rfl
    exact h hc
  unfold commandOf
  rw [if_neg (other 1 (by decide)), if_neg (other 2 (by decide)), if_neg (other 3 (by decide)),
    if_neg (other 4 (by decide)), if_neg (other 5 (by decide)), if_neg (other 6 (by decide)),
    if_neg (other 7 (by decide)), if_neg (other 8 (by decide)), if_neg (other 9 (by decide)),
    if_neg (other 10 (by decide)), if_neg (other 11 (by decide))]

/-- While the RESET line is held the write passes and nothing is taken (R51). -/
theorem writeCommand_resetting (code : Byte) (f : Byte → State → State) (w : CommandWrite) {s : State}
    (h : s.resetting = true) : writeCommand code f w (begin s) =
      { s with bus := { upstream := [], downstream := [(0, commandAccess code w s)] } } := by
  unfold writeCommand
  rw [if_pos (by simpa [passDown, begin] using h)]
  rfl

/-- While a command is pending the one taken is answered BUSY (R163). -/
theorem takeCommand_busy (code tag : Byte) (f : Byte → State → State) {s : State} {p : PendingCommand}
    (h : s.ticket.waiting = some p) : takeCommand code tag f s =
      withResult code tag .busy 0 (match p.kind with | .close => 7 | .retire => 9) s := by
  have code_of_kind : (p.kind.code.setWidth 32 : Word) = match p.kind with | .close => 7 | .retire => 9 := by
    cases p.kind <;> rfl
  simp only [takeCommand, h, code_of_kind]
  rfl

theorem takeCommand_free (code tag : Byte) (f : Byte → State → State) {s : State} (h : s.ticket.waiting = none) :
    takeCommand code tag f s = f tag s := by
  simp only [takeCommand, h]

/-- Settles O11: the write during a reset, then `takeCommand`'s rows on the arrived command. -/
theorem takenCommandAnswered : Obligations.TakenCommandAnswered := by
  intro code w s wf
  rw [fullWrite_exec]
  refine ⟨fun hr => congrArg _ (writeCommand_resetting code _ w hr), fun hr => ?_⟩
  have unknown : exec (.unknownCommand code w) s = .next (writeCommand code (commandOf code) w (begin s)) := rfl
  rw [unknown, writeCommand_arrived code _ w s wf hr]
  refine ⟨fun p hp => congrArg _ (takeCommand_busy code _ _ hp), fun hn hc => ?_, fun hn _ _ => ?_⟩
  · rw [takeCommand_free _ _ _ (s := arrived code w s) hn, commandOf_unknown hc]
    rfl
  · rw [takeCommand_free _ _ _ (s := arrived code w s) hn]

/-- The access of a write passes downstream, and a new command finds the faces idle. -/
theorem passDown_begin (a : Access) (s : State) : passDown controllerId a (begin s) =
    { s with bus := { upstream := [], downstream := [(0, a)] } } := rfl

theorem writeAccess_resetting (a : Addr) (ws : List WordWrite) {s : State} (h : s.resetting = true) :
    writeAccess a ws (begin s) =
      { s with bus := { upstream := [], downstream := [(0, { addr := a, body := .write ws })] } } := by
  rw [writeAccess, passDown_begin]
  exact if_pos h

/-- Outside a reset the words are staged, then the command word is taken where there is one. -/
theorem writeAccess_staged (a : Addr) (ws : List WordWrite) {s u : State} (h : s.resetting = false)
    (hu : u = stageWords a ws { s with bus := { upstream := [], downstream := [(0, { addr := a, body := .write ws })] } }) :
    writeAccess a ws (begin s) = match commandWord s.path.wbase a ws with
      | some c => writeCommandWord c u
      | none => u := by
  have window : u.path.wbase = s.path.wbase := by rw [hu, (stageWords_keeps ..).wbase]
  rw [writeAccess, passDown_begin]
  dsimp only
  rw [if_neg (by simp [h]), ← hu, window] <;> rfl

/-- Settles O12: the command word is the burst's first, and with fewer than four enables it is counted. -/
theorem partialCommandWriteCounted : Obligations.PartialCommandWriteCounted := by
  rintro c a1 a2 s u wf rfl
  simp only [Instr.wf, Bool.and_eq_true, bne_iff_ne, ne_eq] at wf
  obtain ⟨notFull, args⟩ := wf
  obtain ⟨h0, h1, h2⟩ := commandAddr_places s
  have exec_eq : exec (.partialCommandWrite c a1 a2) s =
    .next (writeAccess (commandAddr s) (commandBurst c a1 a2) (begin s)) := rfl
  rw [exec_eq]
  refine ⟨fun hr => congrArg _ (writeAccess_resetting _ _ hr), fun hr => congrArg _ ?_⟩
  have found : commandWord s.path.wbase (commandAddr s) (commandBurst c a1 a2) = some c := by
    rw [commandBurst, commandWord, if_pos h0]
  have staged := stageWords_burst (s := { s with bus := { upstream := [], downstream := [(0,
    { addr := commandAddr s, body := .write (commandBurst c a1 a2) })] } }) h0 h1 h2 c args
  rw [writeAccess_staged _ _ hr staged.symm, found]
  dsimp only
  rw [writeCommandWord, if_neg notFull]
  rfl

/-- Settles O27: both commands answer DONE in every job state. -/
theorem ackAndClearHistoryAnswered : Obligations.AckAndClearHistoryAnswered := fun w s h =>
  ⟨by rw [exec_ack h]; rfl, by rw [exec_clearHistory h]; rfl⟩

/-! ## The refusals of LOAD (R155 to R159) -/

section
variable {w : CommandWrite} {s : State}

theorem load_refused_state (h : Takes w s) (hj : s.ctl.job ≠ .idle) : exec (.load w) s =
    .next (withResult 1 w.tag .state 0 (BitVec.ofNat 32 s.ctl.job.code) (arrived 1 w s)) := by
  rw [exec_load h, loadCommand, arrived_ctl, if_pos hj]
  rfl

/-- In IDLE a check that fails answers the LOAD. -/
theorem load_refused (h : Takes w s) (hj : s.ctl.job = .idle) {check : BitVec 3} {r : ResultCode} {detail : Word}
    (hc : loadCheck s.ticket.staged s.store = some (check, r, detail)) :
    exec (.load w) s = .next (withResult 1 w.tag r check detail (arrived 1 w s)) := by
  rw [exec_load h, loadCommand, arrived_ctl, if_neg (not_not.2 hj), arrived_staged, arrived_store, hc]
  rfl

end

section
variable {ws : List Word} {st : Store}

theorem loadCheck_sum (h : wordSum ws ≠ 0) : loadCheck ws st = some (1, .ticketCheck, wordSum ws) := by
  unfold loadCheck
  rw [ticketSum_eq, if_pos h]

/-- The tested words come in ascending offset order (R157). -/
theorem rangeTests_sorted (ws : List Word) : (rangeTests ws).Pairwise fun x y => x.1 < y.1 := by
  rw [← List.pairwise_map (f := Prod.fst) (R := (· < ·))]
  exact (by decide : [1, 2, 16, 17, 32, 33, 48, 49, 64, 65, 80, 88, 96, 104, 112, 120].Pairwise (· < ·))

/-- The search finds the first word out of range. -/
theorem rangeTests_first {n : Nat} (h : OutOfRange ws n) (first : ∀ m < n, ¬OutOfRange ws m) :
    (rangeTests ws).find? (·.2) = some (n, true) := by
  refine find?_eq_first (rangeTests_sorted ws) ((outOfRange_iff ws n).2 h) rfl ?_
  rintro ⟨m, b⟩ mem before
  cases b with
  | false => rfl
  | true => exact absurd ((outOfRange_iff ws m).1 mem) (first m before)

theorem rangeTests_pass (h : ∀ n, ¬OutOfRange ws n) : (rangeTests ws).find? (·.2) = none := by
  rw [List.find?_eq_none]
  rintro ⟨n, b⟩ mem hit
  obtain rfl : b = true := hit
  exact h n ((outOfRange_iff ws n).1 mem)

theorem loadCheck_range (hs : wordSum ws = 0) {n : Nat} (h : OutOfRange ws n) (first : ∀ m < n, ¬OutOfRange ws m) :
    loadCheck ws st = some (2, .ticketRange, BitVec.ofNat 32 (4 * n)) := by
  unfold loadCheck
  rw [ticketSum_eq, if_neg (not_not.2 hs)]
  simp only [rangeTests_first h first]
  rfl

/-- A ticket whose sum and words pass, judged by its own checks. -/
theorem loadCheck_in_range (hs : wordSum ws = 0) (hr : ∀ n, ¬OutOfRange ws n) : loadCheck ws st =
    if (ticketOf ws).plies.toList.all fun p => !p.enabled then some (3, .noPly, 0)
    else match plies.find? (tallyStreamMissing (ticketOf ws)) with
      | some k => some (4, .ticketRange, detailOf (k.val + 1))
      | none =>
        match fours.find? (runDisagrees (ticketOf ws)) with
        | some i => some (5, .ticketRange, detailOf i.val)
        | none =>
          match fours.find? (mayNotBook (ticketOf ws)) with
          | some i => some (6, .ticketRange, detailOf i.val)
          | none => bookCheck (ticketOf ws) st := by
  unfold loadCheck
  rw [ticketSum_eq, if_neg (not_not.2 hs)]
  simp only [rangeTests_pass hr] <;> rfl

theorem all_disabled_iff (t : Ticket) :
    (t.plies.toList.all fun p => !p.enabled) = true ↔ ∀ k, (t.plies.get k).enabled = false := by
  simp only [List.all_eq_true, Six.mem_toList, Bool.not_eq_true', forall_exists_index, forall_apply_eq_imp_iff]

theorem some_enabled {t : Ticket} (h : ∃ k, (t.plies.get k).enabled = true) :
    ¬(t.plies.toList.all fun p => !p.enabled) = true := by
  obtain ⟨k, hk⟩ := h
  rw [all_disabled_iff]
  intro off
  simp [off k] at hk

theorem not_true_of_not {b : Bool} {P : Prop} (h : b = true ↔ P) (n : ¬P) : b = false :=
  Bool.eq_false_iff.2 fun e => n (h.1 e)

theorem tally_none {t : Ticket} (h : ∀ k, ¬TallyStreamInactive t k) : plies.find? (tallyStreamMissing t) = none :=
  List.find?_eq_none.2 fun k _ hk => h k ((tallyStreamMissing_iff t k).1 hk)

theorem run_none {t : Ticket} (h : ∀ i, ¬RunAgainstStep t i) : fours.find? (runDisagrees t) = none :=
  List.find?_eq_none.2 fun i _ hi => h i ((runDisagrees_iff t i).1 hi)

theorem tally_first {t : Ticket} {k : Ply} (h : TallyStreamInactive t k) (first : ∀ j < k, ¬TallyStreamInactive t j) :
    plies.find? (tallyStreamMissing t) = some k :=
  find?_plies ((tallyStreamMissing_iff t k).2 h) fun j hj => not_true_of_not (tallyStreamMissing_iff t j) (first j hj)

theorem run_first {t : Ticket} {i : StreamId} (h : RunAgainstStep t i) (first : ∀ j < i, ¬RunAgainstStep t j) :
    fours.find? (runDisagrees t) = some i :=
  find?_fours ((runDisagrees_iff t i).2 h) fun j hj => not_true_of_not (runDisagrees_iff t j) (first j hj)

theorem book_first {t : Ticket} {i : StreamId} (h : BookNotAllowed t i) (first : ∀ j < i, ¬BookNotAllowed t j) :
    fours.find? (mayNotBook t) = some i :=
  find?_fours ((mayNotBook_iff t i).2 h) fun j hj => not_true_of_not (mayNotBook_iff t j) (first j hj)

end

/-- Settles O15: the state, the sum, and the first word out of range. -/
theorem loadRefusedByStateSumOrRange : Obligations.LoadRefusedByStateSumOrRange := fun _ _ h =>
  ⟨load_refused_state h,
    fun idle sum => load_refused h idle (loadCheck_sum sum),
    fun idle sum _ out first => load_refused h idle (loadCheck_range sum out first)⟩

/-- Settles O16: each check's search, those before it passed. -/
theorem loadRefusedByThirdToSixth : Obligations.LoadRefusedByThirdToSixth := by
  rintro w s t rfl h idle sum range
  have judged := loadCheck_in_range (st := s.store) sum range
  refine ⟨fun off => load_refused h idle ?_, fun on => ?_⟩
  · rw [judged, if_pos ((all_disabled_iff _).2 off)]
  rw [if_neg (some_enabled on)] at judged
  refine ⟨fun k hit first => load_refused h idle ?_, fun tally => ?_⟩
  · simp only [judged, tally_first hit first]
    rfl
  simp only [tally_none tally] at judged
  refine ⟨fun i hit first => load_refused h idle ?_, fun run i hit first => load_refused h idle ?_⟩
  · simp only [judged, run_first hit first]
    rfl
  · simp only [judged, run_none run, book_first hit first]
    rfl

/-! ## The seventh check (R146) -/

theorem booked_iff (t : Ticket) (i : StreamId) : t.booked i = true ↔ Booked t i := by
  have policies : (t.policy != .proof) = true ↔ t.policy = .void ∨ t.policy = .remake := by
    cases t.policy <;> decide
  simp [Ticket.booked, policies, and_assoc]

theorem booked_false_iff (t : Ticket) (i : StreamId) : t.booked i = false ↔ ¬Booked t i := by
  rw [← booked_iff, Bool.not_eq_true]

theorem any_booked_iff (t : Ticket) : fours.any t.booked = true ↔ ∃ i, Booked t i := by
  simp [List.any_eq_true, booked_iff, mem_fours]

section
variable {t : Ticket} {st : Store}

/-- Recovery ended, the booked streams are judged in order. -/
theorem bookCheck_inService (h : st.phase = .inService) :
    bookCheck t st = fours.findSome? fun s => (bookTest t st s).map fun r => (7, r, detailOf s.val) := by
  simp [bookCheck, recoveryEnded, h]

theorem bookCheck_first (h : st.phase = .inService) {i : StreamId} {r : ResultCode} (hit : bookTest t st i = some r)
    (before : ∀ j < i, bookTest t st j = none) : bookCheck t st = some (7, r, BitVec.ofNat 32 i.val) := by
  rw [bookCheck_inService h]
  exact findSome?_eq_first fours_sorted (mem_fours i) (by simp [hit, detailOf]) fun j _ hj => by simp [before j hj]

theorem bookTest_unbooked {i : StreamId} (h : ¬Booked t i) : bookTest t st i = none := by
  simp [bookTest, (booked_false_iff t i).2 h]

/-- Another booked stream before it names the same book. -/
theorem sharing_iff (t : Ticket) (i : StreamId) (b : Word) :
    (fours.any fun j => decide (j.val < i.val) && t.booked j && (t.streams.get j).book == b) = true ↔
      ∃ j < i, Booked t j ∧ (t.streams.get j).book = b := by
  simp [List.any_eq_true, mem_fours, booked_iff, and_assoc]

theorem bookTest_shared {i : StreamId} (h : Booked t i)
    (share : ∃ j < i, Booked t j ∧ (t.streams.get j).book = (t.streams.get i).book) :
    bookTest t st i = some .bookShared := by
  simp only [bookTest, (booked_iff t i).2 h, (sharing_iff t i _).2 share, Bool.not_true, Bool.false_eq_true, if_false,
    if_true]

/-- A booked stream that shares its book with none before it is judged against the book's row. -/
theorem bookTest_unshared {i : StreamId} (h : Booked t i)
    (alone : ∀ j < i, Booked t j → (t.streams.get j).book ≠ (t.streams.get i).book) : bookTest t st i =
      match st.row (t.streams.get i).book with
      | some r =>
        if r.dir ≠ (t.streams.get i).dir then some .bookDirection
        else if r.empty = false ∧ beyond (t.streams.get i).dir (t.streams.get i).first r.high = false then
          some .bookOverlap
        else none
      | none => if Config.bookCapacity - st.table.length < newBooks t st i then some .bookTableFull else none := by
  have none_shares : ¬(fours.any fun j => decide (j.val < i.val) && t.booked j &&
      (t.streams.get j).book == (t.streams.get i).book) = true := by
    rw [sharing_iff]
    rintro ⟨j, hj, hb, same⟩
    exact alone j hj hb same
  simp only [bookTest, (booked_iff t i).2 h, none_shares, Bool.not_true, Bool.false_eq_true, if_false] <;> rfl

end

/-- Settles O17: the store's own tests, and the booked streams' in order, the first one failing answering. -/
theorem bookCheckJudgesStreams : Obligations.BookCheckJudgesStreams := by
  refine ⟨fun w s h idle six => ?_, fun t st => ⟨fun hp => ?_, ?_, ?_, fun hp => ⟨fun pass => ?_, ?_⟩⟩⟩
  · have judged := loadCheck_of_passesSix s.ticket.staged s.store six
    exact ⟨fun check r detail hb => load_refused h idle (judged.trans hb), judged.trans⟩
  · simp [bookCheck, recoveryEnded, hp, detailOf]
  · rintro ⟨c, hc⟩ booked
    have hb := (any_booked_iff t).2 booked
    simp only [bookCheck, recoveryEnded, hc, hb, storeStateCode]
    rfl
  · rintro ⟨c, hc⟩ unbooked
    have hb : fours.any t.booked = false := by
      rw [Bool.eq_false_iff, ne_eq, any_booked_iff]
      exact not_exists.2 unbooked
    have each : ∀ i, bookTest t st i = none := fun i => bookTest_unbooked (unbooked i)
    simp [bookCheck, recoveryEnded, hc, hb, each]
  · have each : ∀ i, bookTest t st i = none := by
      intro i
      by_cases hb : Booked t i
      · obtain ⟨alone, onRow, room⟩ := pass i hb
        rw [bookTest_unshared hb alone]
        cases hr : st.row (t.streams.get i).book with
        | some r =>
          obtain ⟨dir, above⟩ := onRow r hr
          simp only [dir, ne_eq, not_true_eq_false, if_false]
          refine if_neg ?_
          rintro ⟨he, hbe⟩
          rw [above he] at hbe
          cases hbe
        | none => exact if_neg (not_lt.2 (room hr))
      · exact bookTest_unbooked hb
    simp [bookCheck_inService hp, each]
  · intro i hb before
    refine ⟨fun share => bookCheck_first hp (bookTest_shared hb share) before, fun alone => ?_⟩
    have test := bookTest_unshared (st := st) hb alone
    refine ⟨fun r hr => ⟨fun dir => bookCheck_first hp ?_ before, fun dir he within => bookCheck_first hp ?_ before⟩,
      fun hr full => bookCheck_first hp ?_ before⟩
    · simp only [test, hr, if_pos dir]
    · simp only [test, hr, dir, ne_eq, not_true_eq_false, if_false, he, within, and_self, if_true]
    · simp only [test, hr]
      exact if_pos full

/-! ## STOP, HOLD and RESUME (R117 to R119) -/

theorem enterDrain_eq (s : State) :
    enterDrain s = { s with pipe := blanked s.pipe, ctl := { s.ctl with job := .drain } } := by
  rw [enterDrain, blankPending_eq]
  rfl

theorem enterHold_eq (s : State) :
    enterHold s = { s with pipe := blanked s.pipe, ctl := { s.ctl with job := .hold } } := by
  rw [enterHold, blankPending_eq]
  rfl

/-- STOP, by the job state the command finds. -/
theorem stopCommand_eq (tag : Byte) (s : State) : stopCommand tag s = match s.ctl.job with
    | .run => settle (withResult 3 tag .done 0 0 { s with pipe := blanked s.pipe, ctl := { s.ctl with job := .drain } })
    | .hold | .halted => settle (withResult 3 tag .done 0 0
        { s with pipe := blanked s.pipe, ctl := { s.ctl with job := .drain, command := false, fault := false } })
    | .drain => withResult 3 tag .done 0 0 s
    | j => withResult 3 tag .state 0 (BitVec.ofNat 32 j.code) s := by
  unfold stopCommand
  simp only [enterDrain_eq]
  cases h : s.ctl.job <;> simp only [answer_eq, jobDetail, h] <;> rfl

/-- HOLD, by the job state the command finds. -/
theorem holdCommand_eq (tag : Byte) (s : State) : holdCommand tag s = match s.ctl.job with
    | .run => settle (withResult 4 tag .done 0 0
        { s with pipe := blanked s.pipe, ctl := { s.ctl with job := .hold, command := true } })
    | .hold => withResult 4 tag .done 0 0 s
    | j => withResult 4 tag .state 0 (BitVec.ofNat 32 j.code) s := by
  unfold holdCommand
  simp only [enterHold_eq]
  cases h : s.ctl.job <;> simp only [answer_eq, jobDetail, h] <;> rfl

/-- Settles O21: STOP's and HOLD's rows on the arrived command. -/
theorem stopAndHoldAnswered : Obligations.StopAndHoldAnswered := by
  intro w s h
  rw [exec_stop h, exec_hold h, stopCommand_eq, holdCommand_eq]
  simp only [arrived_ctl, arrived_pipe]
  cases s.ctl.job <;> simp

/-! ### The lines that refuse START and RESUME (R116, R119) -/

theorem haltInputs_sorted : haltInputs.Pairwise (· < ·) := by decide

theorem mem_haltInputs (n : Fin 18) : n ∈ haltInputs ↔ 8 ≤ n.val ∧ n.val ≤ 14 := by
  revert n
  decide

section
variable {s : State}

theorem firstHaltInput_some {n : Fin 18} (h : FirstHaltLine s n) : firstHaltInput s = some n := by
  obtain ⟨low, high, active, first⟩ := h
  exact find?_eq_first haltInputs_sorted ((mem_haltInputs n).2 ⟨low, high⟩) active
    fun m hm before => first m ((mem_haltInputs m).1 hm).1 before

theorem firstHaltInput_none (h : NoHaltLine s) : firstHaltInput s = none :=
  List.find?_eq_none.2 fun n hn => by
    obtain ⟨low, high⟩ := (mem_haltInputs n).1 hn
    simp [h n low high]

/-- The inputs that halt depend on the lines and the ticket alone. -/
@[simp] theorem arrived_firstHaltInput (code : Byte) (w : CommandWrite) :
    firstHaltInput (arrived code w s) = firstHaltInput s := rfl

theorem queueCause_iff : queueCause s = true ↔ 48 ≤ s.report.queue.length := by
  rw [queueCause, decide_eq_true_iff]
  rfl

theorem queueCause_false (h : s.report.queue.length < 48) : queueCause s = false := by
  rw [Bool.eq_false_iff, ne_eq, queueCause_iff]
  omega

@[simp] theorem arrived_queueCause (code : Byte) (w : CommandWrite) : queueCause (arrived code w s) = queueCause s := rfl

/-- With the hold causes of the job cleared and the queue low, HOLDREQ alone holds a resumed job (R119, R121). -/
theorem acceptResume_eq (low : s.report.queue.length < 48) : acceptResume s =
    if s.lines.holdreq then
      { s with pipe := blanked s.pipe, ctl := { s.ctl with job := .hold, command := false, fault := false } }
    else { s with ctl := { s.ctl with job := .run, command := false, fault := false } } := by
  have cause : holdCause ((clearCauses s).setJob .run) = s.lines.holdreq := by
    have level : queueCause ((clearCauses s).setJob .run) = false := queueCause_false low
    rw [holdCause, level]
    simp [clearCauses]
  simp only [acceptResume, holdTest, cause, enterHold_eq, State.setJob_ctl, true_and]
  rfl

/-- RESUME from HOLD or HALTED with no line that refuses it. -/
theorem resumeCommand_unblocked {tag : Byte} (hj : s.ctl.job = .hold ∨ s.ctl.job = .halted)
    (free : resumeBlock s = none) : resumeCommand tag s =
      if queueCause s then withResult 5 tag .queueHigh 0 (BitVec.ofNat 32 s.report.queue.length) s
      else withResult 5 tag .done 0 0 (acceptResume s) := by
  rw [resumeCommand, if_neg (by rcases hj with h | h <;> simp [h]), free]
  rfl

theorem resumeCommand_blocked {tag : Byte} {n : Fin 18} (hj : s.ctl.job = .hold ∨ s.ctl.job = .halted)
    (blocked : resumeBlock s = some n) :
    resumeCommand tag s = withResult 5 tag .linesActive 0 (BitVec.ofNat 32 n.val) s := by
  rw [resumeCommand, if_neg (by rcases hj with h | h <;> simp [h]), blocked]
  rfl

end

/-- Settles O22: the job state, the line that refuses, the queue level, and the job resumed. -/
theorem resumeAnswered : Obligations.ResumeAnswered := by
  intro w s h
  rw [exec_resume h]
  refine ⟨fun notHold notHalted => ?_, fun hold req => congrArg _ ?_, fun halted n first => congrArg _ ?_,
    fun free => ?_⟩
  · rw [resumeCommand, arrived_ctl, if_pos ⟨notHold, notHalted⟩]
    rfl
  · exact resumeCommand_blocked (n := inHoldreq) (.inl hold) (by simp [resumeBlock, hold, req])
  · exact resumeCommand_blocked (.inr halted) (by simp [resumeBlock, halted, firstHaltInput_some first])
  · have unblocked : resumeBlock (arrived 5 w s) = none := by
      rcases free with ⟨hold, req⟩ | ⟨halted, quiet⟩
      · simp [resumeBlock, hold, req]
      · simp [resumeBlock, halted, firstHaltInput_none quiet]
    have answered := resumeCommand_unblocked (tag := w.tag)
      (free.imp (fun x => x.1) (fun x => x.1) : (arrived 5 w s).ctl.job = .hold ∨ (arrived 5 w s).ctl.job = .halted)
      unblocked
    refine ⟨fun high => congrArg _ ?_, fun low req => congrArg _ ?_, fun low req => congrArg _ ?_⟩
    · rw [answered, arrived_queueCause, if_pos (queueCause_iff.2 high)]
      rfl
    · rw [answered, arrived_queueCause, queueCause_false low, acceptResume_eq (s := arrived 5 w s) low]
      simp [req]
    · rw [answered, arrived_queueCause, queueCause_false low, acceptResume_eq (s := arrived 5 w s) low]
      simp [req]

/-! ## SPOIL (R90) -/

theorem modify_congr_of_getElem? {α : Type} {f g : α → α} {l : List α} {p : Nat} {x : α} (h : l[p]? = some x)
    (hfg : f x = g x) : l.modify p f = l.modify p g := by
  obtain ⟨hp, rfl⟩ := List.getElem?_eq_some_iff.1 h
  rw [List.modify_eq_take_cons_drop hp, List.modify_eq_take_cons_drop hp, hfg]

theorem hasSerial_iff (n : Word) (e : Entry) : e.hasSerial n = true ↔ ∃ x, e = .set x ∧ x.serial = n := by
  cases e <;> simp [Entry.hasSerial]

/-- Marking a SET entry OPERATOR adds the cause and no ply (R27, R90). -/
theorem acceptSpoil_eq {n : Word} {p : Nat} {e : SetEntry} {s : State} (h : s.pipe.entries[p]? = some (.set e)) :
    acceptSpoil n p s = raise .operatorSpoil 0 n
      { s with pipe := { s.pipe with entries := s.pipe.entries.modify p (withCause .operator) } } := by
  have marked : Entry.mark .operator none (.set e) = withCause .operator (.set e) := by
    simp [Entry.mark, SetEntry.mark, withCause, Cause.bit]
  rw [acceptSpoil, markAt, modify_congr_of_getElem? h marked]
  rfl

section
variable {tag : Byte} {s : State}

/-- A serial that a set of the job has had, looked for among the entries. -/
theorem spoilCommand_search (hj : s.ctl.job ≠ .idle) (h0 : s.ticket.arg1 ≠ 0)
    (hn : s.ticket.arg1.toNat ≤ s.pipe.opened.toNat) : spoilCommand tag s =
      match s.pipe.entries.findIdx? (Entry.hasSerial s.ticket.arg1) with
      | some p => settle (withResult 8 tag .done 0 (BitVec.ofNat 32 p) (acceptSpoil s.ticket.arg1 p s))
      | none => withResult 8 tag .tooLate 0 0 s := by
  rw [spoilCommand, if_neg hj, if_neg (not_or.2 ⟨h0, by omega⟩)]
  rfl

end

/-- Settles O25: the job state, the serial's range, and the entry found or not. -/
theorem spoilAnswered : Obligations.SpoilAnswered := by
  rintro w s n rfl h
  rw [exec_spoil h]
  refine ⟨fun idle => ?_, fun busy out => ?_, fun busy h0 hn => ?_⟩
  · rw [spoilCommand, arrived_ctl, if_pos idle]
    rfl
  · rw [spoilCommand, arrived_ctl, arrived_arg1, arrived_pipe, if_neg busy, if_pos out]
    rfl
  · rw [spoilCommand_search (s := arrived 8 w s) busy h0 hn]
    simp only [arrived_pipe, arrived_arg1]
    refine ⟨fun p e hp serial first => congrArg _ ?_, fun absent => congrArg _ ?_⟩
    · have found : s.pipe.entries.findIdx? (Entry.hasSerial (shadow s.ticket.arg1 w.arg1)) = some p := by
        rw [List.findIdx?_eq_some_iff_getElem]
        obtain ⟨lt, at_p⟩ := List.getElem?_eq_some_iff.1 hp
        refine ⟨lt, by rw [hasSerial_iff]; exact ⟨e, at_p, serial⟩, fun q hq hit => ?_⟩
        obtain ⟨f, at_q, same⟩ := (hasSerial_iff _ _).1 hit
        exact first q hq f (List.getElem?_eq_some_iff.2 ⟨_, at_q⟩) same
      rw [found]
      dsimp only
      rw [acceptSpoil_eq (s := arrived 8 w s) hp]
      rfl
    · have missing : s.pipe.entries.findIdx? (Entry.hasSerial (shadow s.ticket.arg1 w.arg1)) = none := by
        rw [List.findIdx?_eq_none_iff]
        intro x hx
        rw [Bool.eq_false_iff, ne_eq, hasSerial_iff]
        rintro ⟨e, rfl, serial⟩
        obtain ⟨p, hp⟩ := List.mem_iff_getElem?.1 hx
        exact absent p e hp serial
      rw [missing]

end Sys2Proof.Machine
end

section
/-! PROOFS. The number streams: the lattice of valid values (O47, O19), the limits of requests (O49), the answer to a draw
request (O44), the draws of a set (O45), one draw and the proof generator (O46). -/

namespace Sys2Proof.Machine

open Sys2Proof.Safety

/-! ## The lattice (R3) -/

/-- `v` is the member n steps on from x, not beyond last, and the first of the lattice that is admissible. -/
structure FirstMember (d : StreamDesc) (x : Int) (v : Word) (n : Nat) : Prop where
  member : (v.toNat : Int) = x + n * d.step
  within : beyond d.dir v d.last = false
  fits : admissible d v = true
  first : ∀ m < n, ∀ y : Word, (y.toNat : Int) = x + m * d.step → admissible d y = false

/-- The side of the range from which the lattice runs: what lies on it and not beyond last is a word. -/
def OnSide (d : StreamDesc) (x : Int) : Prop := if 0 < d.step then 0 ≤ x else x < 2 ^ 32

section
variable {d : StreamDesc} {x : Int} {v : Word}

theorem OnSide.next (h : OnSide d x) : OnSide d (x + d.step) := by
  unfold OnSide at *
  by_cases pos : 0 < d.step
  · rw [if_pos pos] at *
    omega
  · rw [if_neg pos] at *
    omega

/-- Beyond last in the statements' words, for a word. -/
theorem beyondLast_word (d : StreamDesc) (v : Word) : beyondLast d v.toNat = beyond d.dir v d.last := by
  unfold beyondLast StreamDesc.dir beyond
  split <;> simp

/-- What is not beyond last is a word. -/
theorem word_of_within (h : OnSide d x) (hb : beyondLast d x = false) : ((BitVec.ofInt 32 x).toNat : Int) = x := by
  have last := d.last.isLt
  unfold OnSide at h
  unfold beyondLast at hb
  have range : 0 ≤ x ∧ x < 2 ^ 32 := by
    split at h <;> simp_all <;> omega
  rw [BitVec.toNat_ofInt]
  omega

theorem ofInt_toNat (v : Word) : BitVec.ofInt 32 (v.toNat : Int) = v := by
  apply BitVec.eq_of_toNat_eq
  have := v.isLt
  rw [BitVec.toNat_ofInt]
  omega

/-- The search from a member on, by that member. -/
theorem firstFrom_succ (d : StreamDesc) (fuel : Nat) (x : Int) : firstFrom d (fuel + 1) x =
    if beyondLast d x then none
    else if admissible d (BitVec.ofInt 32 x) then some (BitVec.ofInt 32 x)
    else firstFrom d fuel (x + d.step) := rfl

/-- What the search finds is the first admissible member. -/
theorem firstMember_of_firstFrom {fuel : Nat} (side : OnSide d x) (h : firstFrom d fuel x = some v) :
    ∃ n, FirstMember d x v n := by
  induction fuel generalizing x with
  | zero => cases h
  | succ fuel ih =>
    rw [firstFrom_succ] at h
    split at h
    · cases h
    next within =>
      rw [Bool.not_eq_true] at within
      have word := word_of_within side within
      split at h
      next fits =>
        obtain rfl := Option.some.inj h
        refine ⟨0, by rw [word, Nat.cast_zero, zero_mul, add_zero], ?_, fits, fun m hm => absurd hm (Nat.not_lt_zero m)⟩
        rw [← beyondLast_word, word, within]
      next unfit =>
        obtain ⟨n, found⟩ := ih side.next h
        refine ⟨n + 1, by rw [found.member]; push_cast; ring, found.within, found.fits, fun m hm y hy => ?_⟩
        cases m with
        | zero =>
          obtain rfl : y = BitVec.ofInt 32 x := by rw [← ofInt_toNat y, hy]; simp
          simpa using unfit
        | succ m => exact found.first m (by omega) y (by rw [hy]; push_cast; ring)

/-- The first admissible member is found by a search that goes far enough. -/
theorem firstFrom_of_firstMember {n fuel : Nat} (hn : n < fuel) (side : OnSide d x) (h : FirstMember d x v n) :
    firstFrom d fuel x = some v := by
  induction n generalizing x fuel with
  | zero =>
    obtain ⟨fuel, rfl⟩ := Nat.exists_eq_add_of_lt hn
    have at_x : (v.toNat : Int) = x := by simpa using h.member
    subst at_x
    rw [firstFrom_succ, beyondLast_word, h.within, ofInt_toNat, h.fits]
    rfl
  | succ n ih =>
    obtain ⟨fuel, rfl⟩ := Nat.exists_eq_add_of_lt (Nat.lt_of_le_of_lt (Nat.zero_le _) hn)
    have within : beyondLast d x = false := by
      have hv := h.within
      have member := h.member
      rw [← beyondLast_word, member] at hv
      unfold beyondLast at *
      by_cases pos : 0 < d.step
      · rw [if_pos pos, decide_eq_false_iff_not] at *
        have : 0 ≤ ((n + 1 : Nat) : Int) * d.step := by positivity
        omega
      · rw [if_neg pos, decide_eq_false_iff_not] at *
        have : ((n + 1 : Nat) : Int) * d.step ≤ 0 := mul_nonpos_of_nonneg_of_nonpos (by positivity) (by omega)
        omega
    have unfit : admissible d (BitVec.ofInt 32 x) = false :=
      h.first 0 (Nat.succ_pos n) _ (by rw [word_of_within side within]; simp)
    simp only [Nat.zero_add, firstFrom_succ, within, unfit, Bool.false_eq_true, if_false]
    refine ih (by omega) side.next ⟨by rw [h.member]; push_cast; ring, h.within, h.fits, fun m hm y hy => ?_⟩
    exact h.first (m + 1) (by omega) y (by rw [hy]; push_cast; ring)

/-- A member that is not beyond last is reached within the search's bound. -/
theorem lt_latticeFuel {n : Nat} (hd : d.step ≠ 0) (h : FirstMember d x v n) : n < latticeFuel d x := by
  have within := h.within
  rw [← beyondLast_word, h.member] at within
  have steps : n * d.step.natAbs ≤ ((d.last.toNat : Int) - x).natAbs := by
    rcases lt_or_gt_of_ne hd with neg | pos
    · rw [beyondLast, if_neg (by omega), decide_eq_false_iff_not] at within
      zify
      rw [abs_of_neg neg]
      have := neg_abs_le ((d.last.toNat : Int) - x)
      nlinarith
    · rw [beyondLast, if_pos pos, decide_eq_false_iff_not] at within
      zify
      rw [abs_of_pos pos]
      have := le_abs_self ((d.last.toNat : Int) - x)
      nlinarith
  rw [latticeFuel, Nat.lt_add_one_iff, Nat.le_div_iff_mul_le (Int.natAbs_pos.2 hd)]
  exact steps

theorem firstFrom_iff (hd : d.step ≠ 0) (side : OnSide d x) :
    firstFrom d (latticeFuel d x) x = some v ↔ ∃ n, FirstMember d x v n :=
  ⟨firstMember_of_firstFrom side, fun ⟨_, h⟩ => firstFrom_of_firstMember (lt_latticeFuel hd h) side h⟩

theorem firstValid_iff (hd : d.step ≠ 0) : firstValid d = some v ↔ ∃ n, FirstMember d d.first.toNat v n := by
  refine firstFrom_iff hd ?_
  have := d.first.isLt
  unfold OnSide
  split <;> omega

theorem nextValid_iff (hd : d.step ≠ 0) (u : Word) :
    nextValid d u = some v ↔ ∃ n, FirstMember d ((u.toNat : Int) + d.step) v n := by
  refine firstFrom_iff hd ?_
  have := u.isLt
  unfold OnSide
  split <;> omega

end

/-- A value is admissible outside the used skip ranges, its check not passed over (R3, R11). -/
theorem admissible_iff (d : StreamDesc) (x : Word) : admissible d x = true ↔
    (∀ r ∈ d.skips, ¬(r.1.toNat ≤ r.2.toNat ∧ r.1.toNat ≤ x.toNat ∧ x.toNat ≤ r.2.toNat)) ∧
    (d.check = .mod11 → checkResult .mod11 x ≠ some 10) := by
  have passes : checkPasses d.check x = true ↔ (d.check = .mod11 → checkResult .mod11 x ≠ some 10) := by
    rw [← Bool.not_eq_false, checkPasses_eq_false_iff, not_and]
  have clear : skipped d x = false ↔
      ∀ r ∈ d.skips, ¬(r.1.toNat ≤ r.2.toNat ∧ r.1.toNat ≤ x.toNat ∧ x.toNat ≤ r.2.toNat) := by
    simp [skipped, List.any_eq_false]
  rw [admissible, Bool.and_eq_true, Bool.not_eq_true', passes, clear]

/-- Settles O47: the search's first admissible member, and what is admissible. -/
theorem nextValidIsFirstOnLattice : Obligations.NextValidIsFirstOnLattice := by
  intro d v x hd
  refine ⟨?_, admissible_iff d x⟩
  have from_v (n : Nat) : (v.toNat : Int) + d.step + n * d.step = v.toNat + (n + 1) * d.step := by ring
  rw [nextValid_iff hd]
  refine exists_congr fun n => ⟨fun h => ⟨?_, h.within, h.fits, ?_⟩, fun ⟨member, within, fits, first⟩ => ⟨?_, within, fits, ?_⟩⟩
  · rw [← from_v, h.member]
  · exact fun m hm y hy => h.first m hm y (by rw [from_v, hy])
  · rw [from_v, member]
  · exact fun m hm y hy => first m hm y (by rw [← from_v, hy])

/-! ## LOAD (R4) -/

/-- The record of a stream as LOAD sets it up: status and value, everything else cleared (R4). -/
theorem loadStream_record (p : Policy) (d : StreamDesc) (g : BitVec 24) : ∃ st v,
    (loadStream p d g).1 = { StreamState.cleared with status := st, v := v } := by
  unfold loadStream
  dsimp only
  split
  · exact ⟨.inactive, 0, rfl⟩
  · split
    · exact ⟨_, _, rfl⟩
    · split
      · exact ⟨_, _, rfl⟩
      · split
        · exact ⟨_, _, rfl⟩
        · exact ⟨_, _, rfl⟩

section
variable {p : Policy} {d : StreamDesc} (g : BitVec 24)

theorem loadStream_inactive (ha : d.active = false) : loadStream p d g = (.cleared, g) := if_pos ha

theorem loadStream_fixed (ha : d.active = true) (hm : d.mode = .fixed) : loadStream p d g =
    ({ StreamState.cleared with
        v := d.first, status := if admissible d d.first then .live else .exhausted }, g) := by
  simp [loadStream, ha, hm]

theorem loadStream_proof (ha : d.active = true) (hm : d.mode ≠ .fixed) (hp : p = .proof) : loadStream p d g =
    ({ StreamState.cleared with v := (proofValue d.check g).1, status := .live }, (proofValue d.check g).2) := by
  simp [loadStream, ha, hm, hp]

theorem loadStream_run (ha : d.active = true) (hm : d.mode ≠ .fixed) (hp : p ≠ .proof) : loadStream p d g =
    (match firstValid d with
      | some v => { StreamState.cleared with v, status := .live }
      | none => { StreamState.cleared with v := d.first, status := .exhausted }, g) := by
  simp only [loadStream, ha, hm, hp, Bool.true_eq_false, if_false]
  cases firstValid d <;> rfl

end

/-- Settles O19: the first valid value by the lattice, the record by mode and policy. -/
theorem loadSetsStreamUp : Obligations.LoadSetsStreamUp := by
  refine ⟨fun d v hd => ?_, ?_⟩
  · rw [firstValid_iff hd]
    exact exists_congr fun n => ⟨fun h => ⟨h.member, h.within, h.fits, h.first⟩, fun ⟨a, b, c, e⟩ => ⟨a, b, c, e⟩⟩
  · rintro p d g x rfl
    obtain ⟨st, v, record⟩ := loadStream_record p d g
    refine ⟨by rw [record]; rfl, by rw [record]; rfl, by rw [record]; rfl, by rw [record]; rfl, by rw [record]; rfl,
      by rw [record]; rfl, by rw [record]; rfl, fun ha => ?_, fun ha hm hp => ⟨fun v hv => ?_, fun hn => ?_⟩,
      fun ha hm => ⟨?_, fun fits => ?_, fun unfit => ?_⟩, fun ha hm hp => ?_, ?_⟩
    · rw [loadStream_inactive g ha]
      exact ⟨rfl, rfl⟩
    · rw [loadStream_run g ha hm hp, hv]
      exact ⟨rfl, rfl⟩
    · rw [loadStream_run g ha hm hp, hn]
      exact ⟨rfl, rfl⟩
    · rw [loadStream_fixed g ha hm]
    · simp [loadStream_fixed g ha hm, fits]
    · simp [loadStream_fixed g ha hm, unfit]
    · rw [loadStream_proof g ha hm hp]
      exact ⟨rfl, rfl⟩
    · cases ha : d.active with
      | false => simp [loadStream_inactive g ha]
      | true =>
        by_cases hm : d.mode = .fixed
        · simp [loadStream_fixed g ha hm, hm]
        · by_cases hp : p = .proof
          · rw [loadStream_proof g ha hm hp, if_pos ⟨rfl, hm, hp⟩]
          · simp [loadStream_run g ha hm hp, hp]

/-! ## The limits of requests (R14 to R16) -/

section
variable {d : StreamDesc} {x : Int}

theorem nearer_within {z : Word} (hz : (z.toNat : Int) = x) (h : beyond d.dir z d.last = false) : nearer d x = z := by
  subst hz
  rw [nearer, beyondLast_word, h, ofInt_toNat]
  rfl

/-- Where no word at x is within last, x lies beyond it. -/
theorem nearer_beyond (side : OnSide d x) (h : ∀ y : Word, (y.toNat : Int) = x → beyond d.dir y d.last = true) :
    nearer d x = d.last := by
  rw [nearer, if_pos]
  by_contra within
  rw [Bool.not_eq_true] at within
  have word := word_of_within side within
  have := h _ word
  rw [← beyondLast_word, word, within] at this
  cases this

theorem onSide_steps (u : Word) (n : Nat) : OnSide d ((u.toNat : Int) + n * d.step) := by
  have := u.isLt
  unfold OnSide
  split
  · positivity
  · have : (n : Int) * d.step ≤ 0 := by nlinarith
    omega

/-- Rounding towards 0, a quotient is 32 or less below 33 times the divisor. -/
theorem tdiv_le_iff {a q : Int} (hq : 0 < q) : a.tdiv q ≤ 32 ↔ a < 33 * q := by
  by_cases ha : 0 ≤ a
  · rw [Int.tdiv_eq_ediv_of_nonneg ha, ← Int.lt_add_one_iff, Int.ediv_lt_iff_lt_mul hq]
    norm_num
  · have nonpos : a.tdiv q ≤ 0 := by
      rw [← neg_neg a, Int.neg_tdiv, neg_nonpos]
      exact Int.tdiv_nonneg (by omega) hq.le
    omega

/-- The steps left are 32 or fewer: the value is beyond the limit, or the limit is fewer than 33 steps away (R14). -/
theorem stepsLeft_le_iff (hd : d.step ≠ 0) (v l : Word) : stepsLeft d v l ≤ 32 ↔
    beyond d.dir v l = true ∨ ((l.toNat : Int) - v.toNat).natAbs < 33 * d.step.natAbs := by
  unfold stepsLeft
  rcases lt_or_gt_of_ne hd with neg | pos
  · have dir : d.dir = .down := by rw [StreamDesc.dir, if_neg (by omega)]
    rw [dir, beyond, decide_eq_true_eq, ← Int.neg_tdiv_neg, tdiv_le_iff (by omega)]
    omega
  · have dir : d.dir = .up := by rw [StreamDesc.dir, if_pos pos]
    rw [dir, beyond, decide_eq_true_eq, tdiv_le_iff pos]
    omega

end

theorem renewalDue_some (d : StreamDesc) {x : StreamState} {l : Word} (h : x.limit = some l) : renewalDue d x =
    if x.status = .live ∧ x.inFlight = false ∧ l ≠ d.last ∧ stepsLeft d x.v l ≤ 32 then some (renewalLimit d l)
    else none := by
  simp only [renewalDue, h]

/-- Settles O49: the two limits by the nearer of a step count and last, the renewal by the steps left. -/
theorem reservationLimits : Obligations.ReservationLimits := by
  intro d x v l z hd
  refine ⟨nearer_within, fun h => nearer_beyond (onSide_steps v 63) h, nearer_within,
    fun h => nearer_beyond (onSide_steps l 64) h, fun hn => by simp only [renewalDue, hn], fun hl => ⟨?_, ?_⟩⟩
  · intro live free notLast near
    rw [renewalDue_some d hl, if_pos ⟨live, free, notLast, (stepsLeft_le_iff hd x.v l).2 near⟩]
  · intro out
    rw [renewalDue_some d hl, if_neg]
    rintro ⟨live, free, notLast, steps⟩
    rw [stepsLeft_le_iff hd] at steps
    rcases out with out | out | out | ⟨within, far⟩
    · exact out live
    · rw [out] at free
      cases free
    · exact notLast out
    · rw [within] at steps
      exact (steps.resolve_left Bool.false_ne_true).not_ge far

/-! ## The answer to a draw request (R7) -/

theorem mem_activeStreams (t : Ticket) (i : StreamId) : i ∈ t.activeStreams ↔ (t.streams.get i).active = true := by
  simp [Ticket.activeStreams, mem_fours]

/-- A stream that needs a limit lacks one in the statements' words. -/
theorem needsLimit_iff (t : Ticket) (s : State) (i : StreamId) : needsLimit t s i = true ↔
    Booked t i ∧ ∀ l, (streamAt s i).limit = some l → beyond (t.streams.get i).dir (streamAt s i).v l = true := by
  rw [needsLimit, Bool.and_eq_true, booked_iff, covered]
  cases (streamAt s i).limit <;> simp

section
variable {t : Ticket} {s : State}

theorem any_exhausted_iff : (t.activeStreams.any fun i => (streamAt s i).status == .exhausted) = true ↔
    ∃ i, (t.streams.get i).active = true ∧ (streamAt s i).status = .exhausted := by
  simp [List.any_eq_true, mem_activeStreams]

theorem any_uncovered_iff : (t.activeStreams.any fun i => needsLimit t s i && !(streamAt s i).inFlight) = true ↔
    ∃ i, needsLimit t s i = true ∧ (streamAt s i).inFlight = false := by
  simp only [List.any_eq_true, mem_activeStreams, Bool.and_eq_true, Bool.not_eq_true']
  exact exists_congr fun i => ⟨fun h => h.2, fun h => ⟨((needsLimit_iff t s i).1 h.1).1.1, h⟩⟩

theorem any_lacking_iff : (t.activeStreams.any fun i => needsLimit t s i) = true ↔ ∃ i, needsLimit t s i = true := by
  simp only [List.any_eq_true, mem_activeStreams]
  exact exists_congr fun i => ⟨fun h => h.2, fun h => ⟨((needsLimit_iff t s i).1 h).1.1, h⟩⟩

end

/-- Settles O44: the four rows exclude one another in their order. -/
theorem drawAnswerByRows : Obligations.DrawAnswerByRows := by
  intro t s lacks
  have lacks_iff : ∀ i, lacks i ↔ needsLimit t s i = true := fun i => (needsLimit_iff t s i).symm
  have live : (∀ i, (t.streams.get i).active = true → (streamAt s i).status ≠ .exhausted) ↔
      ¬∃ i, (t.streams.get i).active = true ∧ (streamAt s i).status = .exhausted := by
    simp only [not_exists, not_and, ne_eq]
  simp only [lacks_iff, live]
  unfold drawAnswer
  simp only [any_exhausted_iff, any_uncovered_iff, any_lacking_iff]
  by_cases exhausted : ∃ i, (t.streams.get i).active = true ∧ (streamAt s i).status = .exhausted
  · simp [exhausted]
  by_cases uncovered : ∃ i, needsLimit t s i = true ∧ (streamAt s i).inFlight = false
  · obtain ⟨i, need, free⟩ := id uncovered
    simp only [exhausted, uncovered, if_true, if_false, reduceCtorEq, false_iff, not_false_eq_true, true_and]
    exact ⟨fun ⟨_, all⟩ => by simp [all i need] at free, fun none_lacks => none_lacks i need⟩
  have all_waiting : ∀ i, needsLimit t s i = true → (streamAt s i).inFlight = true := fun i need => by
    by_contra free
    exact uncovered ⟨i, need, by simpa using free⟩
  by_cases lacking : ∃ i, needsLimit t s i = true
  · simp only [exhausted, uncovered, lacking, if_true, if_false, reduceCtorEq, false_iff, not_false_eq_true, true_and,
      true_iff, and_false]
    exact ⟨all_waiting, not_forall_not.2 lacking⟩
  · simp only [exhausted, uncovered, lacking, if_false, reduceCtorEq, not_false_eq_true, true_and,
      true_iff, false_and, and_false]
    exact not_exists.1 lacking

/-! ## The draws of a set (R5 to R8) -/

/-- The value one draw returns. -/
def drawnValue (d : StreamDesc) (x : StreamState) : Word := if d.mode = .fixed then d.first else x.v

/-- One draw returns the value and records it; beyond the record it changes the value, the repeats and the status
alone. -/
theorem drawStream_records (p : Policy) (d : StreamDesc) (x : StreamState) (g : BitVec 24) :
    (drawStream p d x g).1 = drawnValue d x ∧ ∃ st v u, (drawStream p d x g).2.1 =
      { recordDraw (drawnValue d x) x with status := st, v := v, u := u } := by
  unfold drawStream drawnValue
  dsimp only
  cases hm : d.mode with
  | fixed => exact ⟨rfl, _, _, _, rfl⟩
  | perSet | everyK =>
    simp only [reduceCtorEq, if_false]
    split
    · exact ⟨rfl, _, _, _, rfl⟩
    · split
      · exact ⟨rfl, _, _, _, rfl⟩
      · split
        · exact ⟨rfl, _, _, _, rfl⟩
        · exact ⟨rfl, _, _, _, rfl⟩

/-- Draws of a list of streams reach no other stream and no other value. -/
theorem drawInto_other (t : Ticket) (l : List StreamId) (acc : Values × StreamUnit) {i : StreamId} (hi : i ∉ l) :
    (l.foldl (fun acc j => drawInto t j acc) acc).1.get i = acc.1.get i ∧
    (l.foldl (fun acc j => drawInto t j acc) acc).2.each.get i = acc.2.each.get i := by
  induction l generalizing acc with
  | nil => exact ⟨rfl, rfl⟩
  | cons j l ih =>
    obtain ⟨notHead, notRest⟩ := not_or.1 (List.mem_cons.not.1 hi)
    obtain ⟨values, each⟩ := ih (drawInto t j acc) notRest
    exact ⟨values.trans (Four.get_set_other _ _ (Ne.symm notHead)), each.trans (Four.get_set_other _ _ (Ne.symm notHead))⟩

/-- Each stream of a list is drawn once, with the generator as the draws before it leave it. -/
theorem drawInto_member (t : Ticket) {l : List StreamId} (nodup : l.Nodup) (acc : Values × StreamUnit) {i : StreamId}
    (hi : i ∈ l) : ∃ g,
    (l.foldl (fun acc j => drawInto t j acc) acc).1.get i =
      some (drawStream t.policy (t.streams.get i) (acc.2.each.get i) g).1 ∧
    (l.foldl (fun acc j => drawInto t j acc) acc).2.each.get i =
      (drawStream t.policy (t.streams.get i) (acc.2.each.get i) g).2.1 := by
  induction l generalizing acc with
  | nil => cases hi
  | cons j l ih =>
    obtain ⟨fresh, nodup⟩ := List.nodup_cons.1 nodup
    by_cases same : i = j
    · subst same
      obtain ⟨values, each⟩ := drawInto_other t l (drawInto t i acc) fresh
      exact ⟨acc.2.generator, values.trans (Four.get_set_same _ _ _), each.trans (Four.get_set_same _ _ _)⟩
    · have later := (List.mem_cons.1 hi).resolve_left same
      have untouched : (drawInto t j acc).2.each.get i = acc.2.each.get i := Four.get_set_other _ _ (Ne.symm same)
      obtain ⟨g, values, each⟩ := ih nodup (drawInto t j acc) later
      rw [untouched] at values each
      exact ⟨g, values, each⟩

theorem activeStreams_nodup (t : Ticket) : t.activeStreams.Nodup := List.Nodup.filter _ (by decide)

theorem recordDraw_drawn (v : Word) (x : StreamState) : (recordDraw v x).drawn = true := by
  unfold recordDraw
  split
  · rfl
  next h => split <;> simpa using h

theorem recordDraw_lastDrawn (v : Word) (x : StreamState) : (recordDraw v x).lastDrawn = v := by
  unfold recordDraw
  split
  · rfl
  · split
    · rfl
    next h => exact (not_not.1 h).symm

theorem recordDraw_first {v : Word} {x : StreamState} (h : x.drawn = false) :
    (recordDraw v x).firstDrawn = v ∧ (recordDraw v x).valuesDrawn = 1 := by
  simp [recordDraw, h]

theorem recordDraw_later {v : Word} {x : StreamState} (h : x.drawn = true) :
    (recordDraw v x).firstDrawn = x.firstDrawn ∧
    (recordDraw v x).valuesDrawn = if x.lastDrawn = v then x.valuesDrawn else satAdd x.valuesDrawn 1 := by
  by_cases same : x.lastDrawn = v
  · simp [recordDraw, h, same]
  · simp [recordDraw, h, same, Ne.symm same, satSucc_eq_satAdd]

/-- Settles O45: each active stream's one draw and its record. -/
theorem setDrawsActiveStreams : Obligations.SetDrawsActiveStreams := by
  intro t u i
  refine ⟨fun ha => ?_, fun ha => ?_⟩
  · obtain ⟨values, each⟩ := drawInto_other t t.activeStreams (Four.const none, u) (i := i)
      (by simp [mem_activeStreams, ha])
    exact ⟨values.trans (Four.get_const _ _), each⟩
  · obtain ⟨g, values, each⟩ := drawInto_member t (activeStreams_nodup t) (Four.const none, u)
      ((mem_activeStreams t i).2 ha)
    obtain ⟨value, st, v, n, record⟩ := drawStream_records t.policy (t.streams.get i) (u.each.get i) g
    have drawn_values : (drawAll t u).1.get i = some (drawnValue (t.streams.get i) (u.each.get i)) := by
      rw [← value]
      exact values
    have drawn_record : (drawAll t u).2.each.get i =
        { recordDraw (drawnValue (t.streams.get i) (u.each.get i)) (u.each.get i) with status := st, v := v, u := n } :=
      each.trans record
    rw [drawn_values, drawn_record]
    refine ⟨rfl, recordDraw_drawn _ _, congrArg some (recordDraw_lastDrawn _ _),
      fun h => (recordDraw_later h).1, fun h => ⟨congrArg some (recordDraw_first h).1, (recordDraw_first h).2⟩,
      fun h => ?_⟩
    simp only [Option.some.injEq]
    exact (recordDraw_later h).2

/-! ## One draw, and the proof generator (R5, R6, R20, R21) -/

section
variable {p : Policy} {d : StreamDesc} {x : StreamState} {g : BitVec 24}

theorem drawStream_fixed (h : d.mode = .fixed) : drawStream p d x g = (d.first, recordDraw d.first x, g) := by
  simp only [drawStream, h]

/-- A value that has been returned fewer than K times is returned again (R6). -/
theorem drawStream_repeats (hm : d.mode ≠ .fixed) (h : x.u.toNat + 1 < d.every) :
    drawStream p d x g = (x.v, { recordDraw x.v x with u := x.u + 1 }, g) := by
  cases hd : d.mode with
  | fixed => exact absurd hd hm
  | perSet | everyK => simp only [drawStream, hd, h, if_true]

/-- At its last return the stream advances (R5, R6, R21). -/
theorem drawStream_advances (hm : d.mode ≠ .fixed) (h : d.every ≤ x.u.toNat + 1) : drawStream p d x g =
    if p = .proof then
      (x.v, { recordDraw x.v x with u := 0, v := (proofValue d.check g).1 }, (proofValue d.check g).2)
    else match nextValid d x.v with
      | some v' => (x.v, { recordDraw x.v x with u := 0, v := v' }, g)
      | none => (x.v, { recordDraw x.v x with u := 0, status := .exhausted }, g) := by
  cases hd : d.mode with
  | fixed => exact absurd hd hm
  | perSet | everyK =>
    simp only [drawStream, hd, not_lt.2 h, if_false] <;> cases nextValid d x.v <;> rfl

end

theorem genSteps_eq (n : Nat) (g : BitVec 24) : genSteps n g = genStep^[n] g := by
  induction n generalizing g with
  | zero => rfl
  | succ n ih => exact ih (genStep g)

theorem genStep_getLsbD_zero (g : BitVec 24) :
    (genStep g).getLsbD 0 = (g.getLsbD 23 ^^ g.getLsbD 22 ^^ g.getLsbD 21 ^^ g.getLsbD 16) := by
  unfold genStep
  cases g.getLsbD 23 <;> cases g.getLsbD 22 <;> cases g.getLsbD 21 <;> cases g.getLsbD 16 <;> simp

theorem genStep_getLsbD_succ (g : BitVec 24) {i : Nat} (hi : i < 23) : (genStep g).getLsbD (i + 1) = g.getLsbD i := by
  have low : ∀ b : Bool, (if b then (1 : BitVec 24) else 0).getLsbD (i + 1) = false := by
    intro b
    cases b <;> simp
  simp only [genStep, BitVec.getLsbD_or, BitVec.getLsbD_shiftLeft, low]
  simp
  omega

/-- The register after the steps of the values passed over and of one more. -/
theorem proofRegister_succ (g : BitVec 24) (n : Nat) : proofRegister (genSteps 24 g) n = proofRegister g (n + 1) := by
  rw [proofRegister, proofRegister, genSteps_eq, ← Function.iterate_add_apply]
  rfl

/-- The search passes over the values whose check fails and returns the first that passes, with the register there. -/
theorem proofFrom_eq {m : CheckMethod} {fuel n : Nat} {g : BitVec 24} (hn : n < fuel)
    (hit : checkPasses m (proofOf (proofRegister g n)) = true)
    (before : ∀ i < n, checkPasses m (proofOf (proofRegister g i)) = false) :
    proofFrom m fuel g = (proofOf (proofRegister g n), proofRegister g n) := by
  have first : proofRegister g 0 = genSteps 24 g := (genSteps_eq 24 g).symm
  induction n generalizing g fuel with
  | zero =>
    obtain ⟨fuel, rfl⟩ := Nat.exists_eq_add_of_lt hn
    rw [first] at hit ⊢
    exact if_pos hit
  | succ n ih =>
    obtain ⟨fuel, rfl⟩ := Nat.exists_eq_add_of_lt (Nat.lt_of_le_of_lt (Nat.zero_le _) hn)
    have failed := before 0 (Nat.succ_pos n)
    rw [first] at failed
    rw [← proofRegister_succ] at hit ⊢
    have rest := ih (fuel := fuel) (by omega) hit (fun i hi => by rw [proofRegister_succ]; exact before (i + 1) (by omega))
      (genSteps_eq 24 _).symm
    rw [Nat.zero_add, ← rest]
    exact if_neg (Bool.eq_false_iff.1 failed)

/-- Settles O46: one draw by mode and repeats, one step of the generator bit by bit, and the proof value's search. -/
theorem drawAdvancesStream : Obligations.DrawAdvancesStream := by
  refine ⟨fun p d x g => ⟨drawStream_fixed, fun hm => ⟨fun hk h => drawStream_repeats hm (by simpa [StreamDesc.every, hk] using h),
    fun last => ?_⟩⟩, fun g => ⟨genStep_getLsbD_zero g, fun i hi => genStep_getLsbD_succ g hi⟩,
    fun m g n hn hit before => proofFrom_eq hn hit before⟩
  have every : d.every ≤ x.u.toNat + 1 := by
    unfold StreamDesc.every
    rcases last with perSet | repeats
    · simp [perSet]
    · split <;> omega
  rw [drawStream_advances hm every]
  refine ⟨fun hp => if_pos hp, fun hp n hn => ?_, fun hp hn => ?_⟩
  · rw [if_neg hp, hn]
  · rw [if_neg hp, hn]

end Sys2Proof.Machine
end

section
/-! PROOFS. Faults and outputs (O59, O60), the state after power-on reset (O3) and byte enables (O13). -/

namespace Sys2Proof.Machine

open Sys2Proof.Safety

/-! ## The free order (log 6) -/

theorem arrange_perm {α : Type} (c : Nat) (l : List α) : (arrange c l).Perm l := by
  induction l generalizing c with
  | nil => exact .refl _
  | cons x l ih =>
    have rest := ih (c + 1)
    unfold arrange
    split
    next h => rw [h] at rest; exact rest.cons x
    next y ys h =>
      rw [h] at rest
      exact (List.perm_insertIdx x (y :: ys) (Nat.le_of_lt_succ (Nat.mod_lt _ (Nat.succ_pos _)))).trans (rest.cons x)

/-! ## The action of a fault (R122, R123, R178, R179) -/

theorem blanked_pitchCount (p : Pipeline) : (blanked p).pitchCount = p.pitchCount := by
  unfold blanked
  split <;> rfl

theorem markHalt_eq (s : State) :
    markHalt s = { s with pipe := { s.pipe with entries := s.pipe.entries.map (withCause .halt) } } := by
  refine congrArg s.setEntries (List.map_congr_left fun e _ => ?_)
  cases e <;> simp [SetEntry.mark, withCause, Cause.bit]

theorem enterHalted_eq (kind : FaultKind) (ply : BitVec 3) (serial : Word) (s : State) :
    enterHalted kind ply serial s = haltedBy kind ply serial s := by
  have marked : markHalt (blankPending s) = { s with pipe :=
      { blanked s.pipe with entries := (blanked s.pipe).entries.map (withCause .halt) } } := by
    rw [markHalt_eq, blankPending_eq]
  have stamp := blanked_pitchCount s.pipe
  unfold enterHalted haltedBy takeSnapshot
  simp only [marked, stamp]
  rfl

theorem applyClaim_action (act : FaultAction) (kind : FaultKind) (ply : BitVec 3) (serial : Word) (s : State) :
    applyClaim (.action kind ply serial act) s = acted act kind ply serial s := by
  cases act with
  | carryOn => rfl
  | hold => simp only [applyClaim, acted, enterHold_eq]; rfl
  | halt => simp only [applyClaim, acted, enterHalted_eq]

theorem actionInForce_eq (s : State) (kind : FaultKind) : actionInForce s kind = actsAs s kind := by
  unfold actionInForce actsAs
  cases s.ticket.active <;> cases kind <;> rfl

theorem recordFault_eq (kind : FaultKind) (ply : BitVec 3) (serial : Word) (s : State) :
    recordFault kind ply serial s = { s with report := recorded kind ply serial s } := by
  have total : satSucc s.report.total = if s.report.total = 65535 then 65535 else s.report.total + 1 :=
    ite_congr rfl id fun _ => rfl
  simp only [recordFault, recorded, total]
  rfl

/-- A raise outside a pitch operation acts at once (R179). -/
theorem raise_outside {s : State} (h : s.ctl.inOperation = false) (kind : FaultKind) (ply : BitVec 3) (serial : Word) :
    raise kind ply serial s = acted (actsAs s kind) kind ply serial { s with report := recorded kind ply serial s } := by
  rw [raise, claim, recordFault_eq, if_neg (by simp [h]), applyClaim_action, actionInForce_eq]

/-- A raise inside one leaves a claim (R31, R122). -/
theorem raise_inside {s : State} (h : s.ctl.inOperation = true) (kind : FaultKind) (ply : BitVec 3) (serial : Word) :
    raise kind ply serial s = { s with
      report := recorded kind ply serial s
      ctl := { s.ctl with claims := s.ctl.claims ++ [.action kind ply serial (actsAs s kind)] } } := by
  rw [raise, claim, recordFault_eq, if_pos (by simp [h]), actionInForce_eq]
  rfl

/-- Settles O59: the record, the action at once or waiting, and the claims applied at the operation's end. -/
theorem raiseRecordsAndActs : Obligations.RaiseRecordsAndActs := by
  refine ⟨?_, applyClaim_action, fun s => ?_⟩
  · rintro kind ply serial s u rfl
    exact ⟨fun h => raise_outside h .., fun h => raise_inside h ..⟩
  · exact ⟨arrange s.freeCount s.ctl.claims, _, arrange_perm _ _, rfl⟩

/-! ## The outputs (R124, R182 to R184) -/

theorem and_ne_zero_iff {n : Nat} (x y : BitVec n) :
    (x &&& y != 0) = true ↔ ∃ i < n, x.getLsbD i = true ∧ y.getLsbD i = true := by
  rw [bne_iff_ne, ne_eq, ← not_iff_not, not_not]
  constructor
  · rintro h ⟨i, -, hx, hy⟩
    have := congrArg (·.getLsbD i) h
    simp [hx, hy] at this
  · intro h
    apply BitVec.eq_of_getLsbD_eq
    intro i hi
    have := fun hx hy => h ⟨i, hi, hx, hy⟩
    simpa using this

theorem and_allOnes_ne_zero_iff {n : Nat} (x : BitVec n) : (x &&& BitVec.allOnes n != 0) = true ↔ x ≠ 0 := by
  rw [BitVec.and_allOnes, bne_iff_ne]

/-- Settles O60: each output by its own definition. -/
theorem outputsFollowState : Obligations.OutputsFollowState := by
  intro s
  refine ⟨?_, by simp [estop], fun none => ?_, fun t ht => ?_⟩
  · unfold pressHold
    cases s.ctl.job <;> simp [queueCause_iff]
  · simp only [faultOut, attnOut, faultLineMask, attentionMask, attentionThreshold, none, Option.map_none,
      Option.getD_none, and_allOnes_ne_zero_iff, Bool.or_eq_true, decide_eq_true_eq, queueLevel, true_and]
  · simp only [faultOut, attnOut, faultLineMask, attentionMask, attentionThreshold, ht, Option.map_some,
      Option.getD_some, and_ne_zero_iff, Bool.or_eq_true, decide_eq_true_eq, queueLevel, true_and]

/-! ## The state after power-on reset -/

theorem reset_blocks : ResetBlocks State.reset where
  streams := Four.get_const _
  generator := rfl
  pipe := rfl
  feeders := Six.get_const _
  tally := Six.get_const _
  spoil := rfl
  lines := rfl
  timer := rfl
  job := ⟨rfl, rfl, rfl, rfl, rfl⟩
  snapshot := rfl
  words := ⟨rfl, rfl, rfl, rfl, rfl, rfl⟩
  result := rfl
  store := ⟨rfl, rfl, rfl, rfl, rfl, rfl, rfl, rfl, rfl⟩
  report := ⟨rfl, rfl⟩

/-- The outputs follow from the reset blocks alone. -/
theorem outputs_of_resetBlocks {t : State} (h : ResetBlocks t) : OutputsAtReset t := by
  obtain ⟨idle, -⟩ := h.job
  obtain ⟨-, -, -, noTicket, -⟩ := h.words
  obtain ⟨queue, flags⟩ := h.report
  refine ⟨by rw [h.spoil], by simp [pressHold, idle], by simp [estop, idle], by simp [faultOut, flags], ?_⟩
  simp [attnOut, flags, attentionThreshold, noTicket, queueLevel, queue]

theorem reset_sound : Sound State.reset := cleared_sound rfl rfl rfl ⟨rfl, rfl⟩

theorem reset_sizes : Sizes State.reset :=
  ⟨List.length_replicate, List.length_replicate, List.length_replicate, Nat.zero_le _, Nat.zero_le _⟩

/-- Before its scan a part after reset holds no job, no operation and no record. -/
theorem reset_beforeScan : BeforeScan State.reset := fun _ => ⟨rfl, rfl, rfl, rfl, rfl, rfl, rfl⟩

theorem reset_queueBound : QueueBound State.reset where
  distance _ h := by cases h
  run h := by cases h
  running h := by cases h
  level := Nat.zero_le _
  unscanned := reset_beforeScan

theorem reset_bookBound : BookBound State.reset where
  rows := Nat.zero_le _
  distinct := List.nodup_nil
  room _ h := by cases h
  shared _ h := by cases h
  held := ⟨fun _ => rfl, fun _ => rfl⟩
  noJob _ r h := by cases h
  job _ h := by cases h
  once := List.nodup_nil
  alone := Nat.zero_le _
  ahead h := by cases h
  retiring _ h := by cases h
  failed _ h := by cases h
  flight _ _ _ _ _ _ _ _ h := by cases h
  unscanned := reset_beforeScan

/-- Settles O3: each block at its reset value, and the invariants of a part with no job. -/
theorem resetStateValues : Obligations.ResetStateValues :=
  ⟨reset_blocks, outputs_of_resetBlocks reset_blocks, rfl, rfl, rfl, rfl, Four.get_const _, rfl, rfl, reset_arrayWf,
    reset_sound.1, reset_sound.2, reset_sizes, reset_queueBound, reset_bookBound⟩

/-! ## Byte enables (R151) -/

/-- The bits that a word's byte enables select. -/
def enableMask (e : BitVec 4) : Word :=
  (if e.getLsbD 0 then 0x000000FF else 0) ||| (if e.getLsbD 1 then 0x0000FF00 else 0) |||
    (if e.getLsbD 2 then 0x00FF0000 else 0) ||| (if e.getLsbD 3 then 0xFF000000 else 0)

theorem mergeBytes_eq (old : Word) (w : WordWrite) :
    mergeBytes old w = (old &&& ~~~(enableMask w.enables)) ||| (w.data &&& enableMask w.enables) := rfl

/-- Each byte of the mask is all ones or zero, and its complement the other. -/
theorem enableMask_byte : ∀ (e : BitVec 4) (i : Fin 4),
    (enableMask e).extractLsb' (8 * i.val) 8 = (if e.getLsbD i.val then BitVec.allOnes 8 else 0) ∧
    (~~~(enableMask e)).extractLsb' (8 * i.val) 8 = (if e.getLsbD i.val then 0 else BitVec.allOnes 8) := by
  decide

/-- Settles O13: a byte of the merge, by the mask's byte. -/
theorem byteEnablesSelectBytes : Obligations.ByteEnablesSelectBytes := by
  intro old w i
  obtain ⟨mask, rest⟩ := enableMask_byte w.enables i
  rw [mergeBytes_eq, BitVec.extractLsb'_or, BitVec.extractLsb'_and, BitVec.extractLsb'_and, mask, rest]
  split
  · exact (congrArg₂ (· ||| ·) BitVec.and_zero BitVec.and_allOnes).trans BitVec.zero_or
  · exact (congrArg₂ (· ||| ·) BitVec.and_allOnes BitVec.and_zero).trans BitVec.or_zero

end Sys2Proof.Machine
end

section
/-! PROOFS. Press lines and the pitch timer: samples (O50), edges (O51), level inputs (O52), encoder, pitch and deadline
events (O38, O39). -/

namespace Sys2Proof.Machine

open Sys2Proof.Safety

/-! ## What a raise and the end of recovery leave unchanged -/

section
variable (kind : FaultKind) (ply : BitVec 3) (serial : Word) (s : State)

/-- A raise reaches the pipeline, job control and the report block alone. -/
theorem raise_changes : ∃ p j r, raise kind ply serial s = ((s.setReport r).setPipe p).setCtl j := by
  obtain ⟨p, j, h⟩ := claim_changes (c := .action kind ply serial (actionInForce s kind)) (by simp)
    (recordFault kind ply serial s)
  exact ⟨p, j, _, h⟩

@[simp] theorem raise_path : (raise kind ply serial s).path = s.path := by
  obtain ⟨p, j, r, h⟩ := raise_changes kind ply serial s; rw [h]; rfl
@[simp] theorem raise_bus : (raise kind ply serial s).bus = s.bus := by
  obtain ⟨p, j, r, h⟩ := raise_changes kind ply serial s; rw [h]; rfl
@[simp] theorem raise_ticket : (raise kind ply serial s).ticket = s.ticket := by
  obtain ⟨p, j, r, h⟩ := raise_changes kind ply serial s; rw [h]; rfl
@[simp] theorem raise_streams : (raise kind ply serial s).streams = s.streams := by
  obtain ⟨p, j, r, h⟩ := raise_changes kind ply serial s; rw [h]; rfl
@[simp] theorem raise_tally : (raise kind ply serial s).tally = s.tally := by
  obtain ⟨p, j, r, h⟩ := raise_changes kind ply serial s; rw [h]; rfl
@[simp] theorem raise_lines : (raise kind ply serial s).lines = s.lines := by
  obtain ⟨p, j, r, h⟩ := raise_changes kind ply serial s; rw [h]; rfl
@[simp] theorem raise_timer : (raise kind ply serial s).timer = s.timer := by
  obtain ⟨p, j, r, h⟩ := raise_changes kind ply serial s; rw [h]; rfl
@[simp] theorem raise_store : (raise kind ply serial s).store = s.store := by
  obtain ⟨p, j, r, h⟩ := raise_changes kind ply serial s; rw [h]; rfl
@[simp] theorem raise_resetting : (raise kind ply serial s).resetting = s.resetting := by
  obtain ⟨p, j, r, h⟩ := raise_changes kind ply serial s; rw [h]; rfl
@[simp] theorem raise_freeCount : (raise kind ply serial s).freeCount = s.freeCount := by
  obtain ⟨p, j, r, h⟩ := raise_changes kind ply serial s; rw [h]; rfl

end

theorem raiseAll_nil (s : State) : raiseAll [] s = s := rfl

/-- One raise alone is in no order. -/
theorem raiseAll_single (kind : FaultKind) (ply : BitVec 3) (serial : Word) (s : State) :
    raiseAll [(kind, ply, serial)] s = raise kind ply serial s := rfl

/-! ## Edges (R105 to R107, log 4) -/

section
variable (n : Fin 18) (s : State)

theorem edgeState_changes : ∃ l, edgeState n s = (begin s).setLines l := by
  unfold edgeState
  split <;> exact ⟨_, rfl⟩

@[simp] theorem edgeState_ticket : (edgeState n s).ticket = s.ticket := by
  obtain ⟨l, h⟩ := edgeState_changes n s; rw [h]; rfl
@[simp] theorem edgeState_pipe : (edgeState n s).pipe = s.pipe := by
  obtain ⟨l, h⟩ := edgeState_changes n s; rw [h]; rfl
@[simp] theorem edgeState_spoil : (edgeState n s).spoil = s.spoil := by
  obtain ⟨l, h⟩ := edgeState_changes n s; rw [h]; rfl
@[simp] theorem edgeState_timer : (edgeState n s).timer = s.timer := by
  obtain ⟨l, h⟩ := edgeState_changes n s; rw [h]; rfl
@[simp] theorem edgeState_ctl : (edgeState n s).ctl = s.ctl := by
  obtain ⟨l, h⟩ := edgeState_changes n s; rw [h]; rfl

end

section
variable {n : Fin 18} {f : State → State} {s : State}

/-- An edge that is taken is handled in the state it is taken in. -/
theorem onEdge_taken (h : EdgeTaken n s) : onEdge n f s = .next (f (edgeState n s)) := by
  obtain ⟨line, edge⟩ := h
  have found : takeEdge n (begin s) = some (edgeState n s) := by
    have settings : setting (begin s) n = setting s n := rfl
    have active : inputActive (begin s) n = inputActive s n := rfl
    have lines : (begin s).lines = s.lines := rfl
    unfold takeEdge edgeState
    rw [settings, active, lines]
    by_cases raised : n ∈ s.lines.raised
    · rw [if_pos raised, if_pos raised]
      rfl
    · obtain ⟨sampled, enabled, off⟩ := edge.resolve_left raised
      rw [if_neg raised, if_neg raised, sampled, enabled, off]
      rfl
  unfold onEdge
  rw [line, found]
  rfl

theorem onEdge_none (h : ¬EdgeTaken n s) : onEdge n f s = .next (quiet s) := by
  unfold onEdge
  cases line : s.resetting with
  | true => rfl
  | false =>
    have edge := (not_and.1 h) line
    rw [not_or] at edge
    obtain ⟨notRaised, notOutside⟩ := edge
    have none_taken : takeEdge n (begin s) = none := by
      have lines : (begin s).lines = s.lines := rfl
      unfold takeEdge
      rw [lines, if_neg notRaised, if_neg]
      simp only [Bool.and_eq_true, Bool.not_eq_true', and_assoc]
      exact notOutside
    rw [none_taken]
    rfl

end

/-- The splice of an enabled ply in a running state (R87). -/
theorem spliceTaken_eq {k : Ply} {s : State} {t : Ticket} {p : Nat} (hr : s.ctl.job.running = true)
    (ht : s.ticket.active = some t) (hp : headPosOf s k = some p) : spliceTaken k s =
      settle (raise .splice (plyNumber k) (entryAt s p).serialOf { s with
        pipe := { s.pipe with entries := s.pipe.entries.modify p (Entry.mark .splice (some k)) }
        spoil := { s.spoil with zones := s.spoil.zones.set k ((t.plies.get k).zone - 1) } }) := by
  simp only [spliceTaken, ht, hp, hr, if_true]
  rfl

theorem spliceTaken_none {k : Ply} {s : State} (h : s.ctl.job.running = false ∨ headPosOf s k = none) :
    spliceTaken k s = s := by
  unfold spliceTaken
  split
  next hp =>
    rcases h with h | h
    · rw [h]; rfl
    · rw [h] at hp; cases hp
  · rfl

/-- Settles O51: the edges by whether they are taken. -/
theorem edgesRaiseFaults : Obligations.EdgesRaiseFaults := by
  intro k s
  refine ⟨onEdge_taken, onEdge_taken, fun taken => ⟨fun idle => ?_, fun hr t p ht hp => ?_⟩, onEdge_none, onEdge_none,
    onEdge_none, onEdge_none⟩
  · have heads : headPosOf (edgeState (inSplice k) s) k = headPosOf s k := by simp [headPosOf]
    refine (onEdge_taken taken).trans (congrArg _ (spliceTaken_none ?_))
    rwa [heads, edgeState_ctl]
  · have heads : headPosOf (edgeState (inSplice k) s) k = headPosOf s k := by simp [headPosOf]
    have entry : entryAt (edgeState (inSplice k) s) p = entryAt s p := by simp [entryAt]
    refine (onEdge_taken taken).trans (congrArg _ ?_)
    rw [spliceTaken_eq (t := t) (p := p) (by simpa using hr) (by simpa using ht) (by rw [heads, hp]), entry,
      edgeState_pipe, edgeState_spoil]

/-! ## Level inputs (R108, R121, R140) -/

/-- The state a level input's change is taken in, in the statements' words. -/
theorem takeLevel_eq (n : Fin 18) (active : Bool) (s : State) : takeLevel n active (begin s) = levelState n active s := rfl

section
variable (n : Fin 18) (active : Bool) (s : State)

theorem levelState_changes : ∃ l, levelState n active s = (begin s).setLines l := by
  unfold levelState
  split
  · exact ⟨s.lines, rfl⟩
  · exact ⟨_, rfl⟩

@[simp] theorem levelState_pipe : (levelState n active s).pipe = s.pipe := by
  obtain ⟨l, h⟩ := levelState_changes n active s; rw [h]; rfl
@[simp] theorem levelState_ctl : (levelState n active s).ctl = s.ctl := by
  obtain ⟨l, h⟩ := levelState_changes n active s; rw [h]; rfl
@[simp] theorem levelState_store : (levelState n active s).store = s.store := by
  obtain ⟨l, h⟩ := levelState_changes n active s; rw [h]; rfl

end

/-- HOLDREQ active is a hold cause (R121). -/
theorem holdreqTo_true (s : State) : holdreqTo true s =
    holdTest { s with lines := { s.lines with holdreq := true } } := rfl

theorem holdTest_holdreq_run {s : State} (active : s.lines.holdreq = true) (run : s.ctl.job = .run) :
    holdTest s = { s with pipe := blanked s.pipe, ctl := { s.ctl with job := .hold } } := by
  rw [holdTest, if_pos ⟨run, by simp [holdCause, active]⟩, enterHold_eq]

theorem holdTest_of_not_run {s : State} (other : s.ctl.job ≠ .run) : holdTest s = s :=
  if_neg fun h => other h.1

/-- A HOLDREQ command that names a change. -/
theorem exec_holdreqChange {active : Bool} {s : State} (line : s.resetting = false) (sampled : s.lines.sampled = true)
    (change : s.lines.holdreq ≠ active) (enabled : active = true → (setting s inHoldreq).enabled = true) :
    exec (.holdreqChange active) s = .next (settle (holdreqTo active (levelState inHoldreq active s))) := by
  have settings : setting (begin s) inHoldreq = setting s inHoldreq := rfl
  have lines : (begin s).lines = s.lines := rfl
  have reset : (begin s).resetting = s.resetting := rfl
  have allowed : (active && !(setting s inHoldreq).enabled) = false := by
    cases active with
    | false => rfl
    | true => simp [enabled rfl]
  refine congrArg Host.Outcome.next (if_neg ?_)
  rw [reset, lines, settings, allowed]
  simp [line, sampled, change]

/-- One that names none. -/
theorem exec_holdreqChange_none {active : Bool} {s : State} (h : s.resetting = true ∨ s.lines.sampled = false ∨
    s.lines.holdreq = active ∨ (active = true ∧ (setting s inHoldreq).enabled = false)) :
    exec (.holdreqChange active) s = .next (quiet s) := by
  have settings : setting (begin s) inHoldreq = setting s inHoldreq := rfl
  have lines : (begin s).lines = s.lines := rfl
  have reset : (begin s).resetting = s.resetting := rfl
  refine congrArg _ (if_pos ?_)
  rw [settings, lines, reset]
  rcases h with h | h | h | ⟨rfl, h⟩ <;> simp [h]

theorem exec_pwrwarnActive {s : State} (line : s.resetting = false) (sampled : s.lines.sampled = true)
    (off : s.lines.pwrwarn = false) (enabled : (setting s inPwrwarn).enabled = true) :
    exec .pwrwarnActive s = .next (settle (powerActive (levelState inPwrwarn true s))) := by
  have settings : setting (begin s) inPwrwarn = setting s inPwrwarn := rfl
  have lines : (begin s).lines = s.lines := rfl
  have reset : (begin s).resetting = s.resetting := rfl
  refine congrArg _ (if_neg ?_)
  rw [settings, lines, reset]
  simp [line, sampled, off, enabled]

theorem exec_pwrwarnActive_none {s : State} (h : s.resetting = true ∨ s.lines.sampled = false ∨ s.lines.pwrwarn = true ∨
    (setting s inPwrwarn).enabled = false) : exec .pwrwarnActive s = .next (quiet s) := by
  have settings : setting (begin s) inPwrwarn = setting s inPwrwarn := rfl
  have lines : (begin s).lines = s.lines := rfl
  have reset : (begin s).resetting = s.resetting := rfl
  refine congrArg _ (if_pos ?_)
  rw [settings, lines, reset]
  rcases h with h | h | h | h <;> simp [h]

theorem exec_pwrwarnInactive {s : State} (line : s.resetting = false) (sampled : s.lines.sampled = true)
    (on : s.lines.pwrwarn = true) : exec .pwrwarnInactive s =
      .next (settle (chooseIfLeft (begin s) (powerInactive (levelState inPwrwarn false s)))) := by
  have lines : (begin s).lines = s.lines := rfl
  have reset : (begin s).resetting = s.resetting := rfl
  refine congrArg _ (if_neg ?_)
  rw [lines, reset]
  simp [line, sampled, on]

theorem exec_pwrwarnInactive_none {s : State} (h : s.resetting = true ∨ s.lines.sampled = false ∨
    s.lines.pwrwarn = false) : exec .pwrwarnInactive s = .next (quiet s) := by
  have lines : (begin s).lines = s.lines := rfl
  have reset : (begin s).resetting = s.resetting := rfl
  refine congrArg _ (if_pos ?_)
  rw [lines, reset]
  rcases h with h | h | h <;> simp [h]

/-- POWER_WARN raised, the store QUIESCED unless FAILED (R140, log 16). -/
theorem powerActive_works {s : State} (works : ∀ c, s.store.phase ≠ .failed c) : powerActive s =
    { raise .powerWarn 0 0 { s with lines := { s.lines with pwrwarn := true } } with
      store := { s.store with quiesced := true } } := by
  unfold powerActive
  dsimp only
  split
  next c failed =>
    rw [raise_store] at failed
    exact absurd failed (works c)
  next => rw [raise_store]; rfl

theorem powerActive_failed {s : State} {c : FailCause} (failed : s.store.phase = .failed c) : powerActive s =
    raise .powerWarn 0 0 { s with lines := { s.lines with pwrwarn := true } } := by
  unfold powerActive
  dsimp only
  split
  next => rfl
  next works => exact absurd (by rw [raise_store]; exact failed) (works c)

@[simp] theorem endRecovery_quiesced (s : State) : (endRecovery s).store.quiesced = s.store.quiesced := by
  unfold endRecovery
  split <;> rfl

/-- A store that leaves QUIESCED ends its recovery where nothing is left of it, and chooses (R140). -/
theorem chooseIfLeft_left {s u : State} (store : u.store = s.store) (h : s.store.quiesced = true) :
    chooseIfLeft s (powerInactive u) = chooseNext (endRecovery { u with
      lines := { u.lines with pwrwarn := false }, store := { s.store with quiesced := false } }) := by
  have back : powerInactive u = endRecovery { u with
      lines := { u.lines with pwrwarn := false }, store := { s.store with quiesced := false } } := by
    rw [← store]
    exact if_pos (show u.store.quiesced = true by rw [store]; exact h)
  rw [chooseIfLeft, back, endRecovery_quiesced]
  exact if_pos (by rw [h]; rfl)

theorem chooseIfLeft_stays {s u : State} (store : u.store = s.store) (h : s.store.quiesced = false) :
    chooseIfLeft s (powerInactive u) = { u with lines := { u.lines with pwrwarn := false } } := by
  rw [chooseIfLeft, h, Bool.false_and, if_neg Bool.false_ne_true]
  exact if_neg (by rw [State.setLines_store, store, h]; exact Bool.false_ne_true)

/-- Settles O52: HOLDREQ and PWRWARN, each with a change and without one. -/
theorem levelInputsAct : Obligations.LevelInputsAct := by
  intro s
  refine ⟨fun h _ => exec_holdreqChange_none (h.imp_right .inl),
    fun h => ⟨exec_pwrwarnActive_none (h.imp_right .inl), exec_pwrwarnInactive_none (h.imp_right .inl)⟩,
    exec_holdreqChange_none (.inr (.inr (.inl rfl))), fun h => exec_pwrwarnActive_none (.inr (.inr (.inl h))),
    fun h => exec_pwrwarnInactive_none (.inr (.inr h)), fun h => exec_holdreqChange_none (.inr (.inr (.inr ⟨rfl, h⟩))),
    fun h => exec_pwrwarnActive_none (.inr (.inr (.inr h))), fun line sampled => ?_⟩
  refine ⟨fun off enabled => ?_, fun on => ?_, fun off enabled => ⟨_, rfl, ?_⟩, fun on => ⟨_, rfl, ?_⟩⟩
  · rw [exec_holdreqChange line sampled (by simp [off]) fun _ => enabled, holdreqTo_true]
    refine ⟨fun run => ?_, fun other => ?_⟩
    · rw [holdTest_holdreq_run rfl (by simpa using run), levelState_ctl, levelState_pipe]
    · rw [holdTest_of_not_run (by simpa using other)]
  · exact exec_holdreqChange line sampled (by simp [on]) (by simp)
  · rw [exec_pwrwarnActive line sampled off enabled]
    have store : (levelState inPwrwarn true s).store = s.store := levelState_store ..
    refine ⟨fun works => ?_, fun ⟨c, failed⟩ => ?_⟩
    · rw [powerActive_works (by simpa [store] using works)]
      exact congrArg (fun st => Host.Outcome.next (settle (State.setStore _ { st with quiesced := true }))) store
    · rw [powerActive_failed (by rw [store]; exact failed)]
  · rw [exec_pwrwarnInactive line sampled on]
    have store : (levelState inPwrwarn false s).store = (begin s).store := levelState_store ..
    exact ⟨fun h => congrArg (Host.Outcome.next ∘ settle) (chooseIfLeft_stays store h),
      fun h => congrArg (Host.Outcome.next ∘ settle) (chooseIfLeft_left store h)⟩

end Sys2Proof.Machine
end

section
/-! PROOFS. The tally receivers: a character by its value and the assembly, and a completed report at the collator
(R72 to R80). -/

namespace Sys2Proof.Machine
open Sys2Proof.Safety

/-! ## Characters (R72 to R74) -/

theorem charOf_digit (d : Fin 10) : charOf (BitVec.ofNat 8 (0x30 + d.val)) = .digit d := by
  revert d
  decide

theorem charOf_other {b : Byte} (h : b.toNat < 0x30 ∨ 0x39 < b.toNat) (query : b ≠ 0x3F) (lf : b ≠ 0x0A) (cr : b ≠ 0x0D) :
    charOf b = .other := by
  have ne : ∀ {n : Nat}, n < 256 → b ≠ BitVec.ofNat 8 n → b.toNat ≠ n := fun small h same =>
    h (BitVec.eq_of_toNat_eq (by rw [same, BitVec.toNat_ofNat, Nat.mod_eq_of_lt small]))
  unfold charOf
  dsimp only
  rw [if_neg (by omega), if_neg (ne (by decide) query), if_neg (ne (by decide) lf), if_neg (ne (by decide) cr)]

theorem setReceiver_eq (k : Ply) (r : Receiver) (s : State) : setReceiver k r s = { s with tally := s.tally.set k r } := rfl

section
variable {k : Ply} {s : State}

theorem exec_tallyCharacter_missed (b : Byte) (stop : Bool) (h : (s.tally.get k).line ≠ .ready) :
    exec (.tallyCharacter k b stop) s = .next (quiet s) := by
  refine congrArg Host.Outcome.next (if_pos ?_)
  rw [show (begin s).tally = s.tally from rfl]
  simp [h]

theorem exec_tallyCharacter (b : Byte) (stop : Bool) (works : s.resetting = false) (h : (s.tally.get k).line = .ready) :
    exec (.tallyCharacter k b stop) s =
      .next (if stop then takeCharacter k (charOf b) (quiet s) else framingError k (quiet s)) := by
  refine congrArg Host.Outcome.next (if_neg ?_)
  rw [show (begin s).tally = s.tally from rfl, show (begin s).resetting = s.resetting from rfl]
  simp [works, h]

/-- A character that completes no report goes into the assembly. -/
theorem takeCharacter_assembles {c : TallyChar} (h : c ≠ .cr ∨ (s.tally.get k).assembly = .empty) :
    takeCharacter k c s =
      { s with tally := s.tally.set k { s.tally.get k with assembly := assemble c (s.tally.get k).assembly } } := by
  unfold takeCharacter
  dsimp only
  split
  next r rep report =>
    rcases h with h | h
    · exact absurd rfl h
    · rw [h] at report
      exact absurd report (by simp [reportOf])
  next => rfl

theorem takeCharacter_completes {rep : TallyReport} (h : reportOf (s.tally.get k).assembly = some rep) :
    takeCharacter k .cr s =
      completeReport k rep { s with tally := s.tally.set k { s.tally.get k with assembly := .empty } } := by
  unfold takeCharacter
  dsimp only
  rw [h] <;> rfl

theorem exec_tallyLineIdleSeen (works : s.resetting = false) (h : (s.tally.get k).line = .hunt) :
    exec (.tallyLineIdleSeen k) s =
      .next { quiet s with tally := s.tally.set k { s.tally.get k with line := .ready } } := by
  refine congrArg Host.Outcome.next (if_pos ?_)
  rw [show (begin s).tally = s.tally from rfl, show (begin s).resetting = s.resetting from rfl]
  simp [works, h]

theorem exec_tallyLineIdleSeen_none (h : (s.tally.get k).line ≠ .hunt) :
    exec (.tallyLineIdleSeen k) s = .next (quiet s) := by
  refine congrArg Host.Outcome.next (if_neg ?_)
  rw [show (begin s).tally = s.tally from rfl]
  simp [h]

end

/-- Settles O53, by the character: a digit, a query, LF, CR and any other. -/
theorem receiverTakesCharacters : Obligations.ReceiverTakesCharacters := by
  rintro k b s r rfl works
  refine ⟨fun h stop => exec_tallyCharacter_missed b stop h, fun ready => ⟨?_, ?_, ?_⟩, exec_tallyLineIdleSeen works,
    exec_tallyLineIdleSeen_none⟩
  · exact exec_tallyCharacter b false works ready
  · intro a h
    have enters : ∀ c, charOf b = c → (c ≠ .cr ∨ (s.tally.get k).assembly = .empty) →
        assemble c (s.tally.get k).assembly = a → exec (.tallyCharacter k b true) s =
          .next { quiet s with tally := s.tally.set k { s.tally.get k with assembly := a } } := by
      rintro c rfl free rfl
      rw [exec_tallyCharacter b true works ready, if_pos rfl, takeCharacter_assembles (s := quiet s) free]
    rcases h with ⟨d, rfl, h⟩ | ⟨rfl, h⟩ | ⟨rfl, rfl⟩ | ⟨rfl, h, rfl⟩ | ⟨value, query, lf, cr, rfl⟩
    · refine enters _ (charOf_digit d) (.inl (by simp)) ?_
      rcases h with ⟨h, rfl⟩ | ⟨ds, h, short, rfl⟩ | ⟨ds, h, long, rfl⟩ | ⟨h | h, rfl⟩
      · rw [h]; rfl
      · rw [h]; exact if_pos short
      · rw [h]; exact if_neg (not_lt.2 long)
      · rw [h]; rfl
      · rw [h]; rfl
    · refine enters .query rfl (.inl (by simp)) ?_
      rcases h with ⟨h, rfl⟩ | ⟨h, rfl⟩
      · rw [h]; rfl
      · cases assembly : (s.tally.get k).assembly with
        | empty => exact absurd assembly h
        | digits _ | query | discard => rfl
    · exact enters .lf rfl (.inl (by simp)) rfl
    · exact enters .cr rfl (.inr h) rfl
    · exact enters .other (charOf_other value query lf cr) (.inl (by simp)) rfl
  · intro rep h
    have report : reportOf (s.tally.get k).assembly = some rep := by
      rcases h with ⟨ds, h, rfl⟩ | ⟨h, rfl⟩ | ⟨h, rfl⟩ <;> rw [h] <;> rfl
    rw [exec_tallyCharacter _ true works ready, if_pos rfl]
    exact congrArg _ (takeCharacter_completes (s := quiet s) report)

/-! ## The comparison at the collator (R76 to R80) -/

theorem Six.set_get_self {α : Type} (v : Six α) (k : Fin 6) : v.set k (v.get k) = v := by
  cases v
  fin_cases k <;> rfl

theorem numberMatches_iff (check : Bool) (m : CheckMethod) (v : Word) (ds : List (Fin 10)) :
    numberMatches check m v ds = true ↔ Agrees check m v ds := by
  cases check with
  | false => simp [numberMatches, Agrees]
  | true =>
    cases ds using List.reverseRecOn with
    | nil => simp [numberMatches, Agrees]
    | append_singleton ys c =>
      have long : 2 ≤ (ys ++ [c]).length ↔ ys ≠ [] := by
        rw [List.length_append, List.length_singleton, ← List.length_pos_iff]
        omega
      simp only [numberMatches, Agrees, if_true, List.getLast?_append, List.getLast?_singleton, Option.some_or, long,
        List.dropLast_concat, Bool.and_eq_true, decide_eq_true_eq, beq_iff_eq, reduceCtorEq, false_and, true_and, false_or]
      constructor
      · rintro ⟨⟨some, number⟩, digit⟩
        exact ⟨ys, c, rfl, some, number, digit⟩
      · rintro ⟨ys', c', same, some, number, digit⟩
        obtain ⟨rfl, rfl⟩ := List.append_singleton_inj.1 same
        exact ⟨⟨some, number⟩, digit⟩

section
variable {t : Ticket} {k : Ply} {s : State}

theorem attributed_some {e : SetEntry} (running : s.ctl.job.running = true) (enabled : (t.plies.get k).enabled = true)
    (tally : (t.plies.get k).tally = true) (h : entryAt s t.collator = .set e) : attributed t k s = some e := by
  rw [attributed, running, enabled, tally, h]
  rfl

theorem attributed_none (h : s.ctl.job.running = false ∨ (t.plies.get k).enabled = false ∨
    (t.plies.get k).tally = false ∨ ∀ e, entryAt s t.collator ≠ .set e) : attributed t k s = none := by
  unfold attributed
  split
  next on =>
    simp only [Bool.and_eq_true] at on
    obtain ⟨⟨running, enabled⟩, tally⟩ := on
    rcases h with h | h | h | h
    · exact absurd running (by simp [h])
    · exact absurd enabled (by simp [h])
    · exact absurd tally (by simp [h])
    · split
      next e set => exact absurd set (h e)
      next => rfl
  next => rfl

theorem setReceiver_count (k : Ply) (malformed ignored : Bool) (s : State) :
    setReceiver k ((s.tally.get k).count malformed ignored) s = reportCounted k malformed ignored s := by
  cases malformed <;> cases ignored <;> simp [setReceiver, reportCounted, Receiver.count, State.setTally]

/-- What the completion of a report does with its entry and fault. -/
theorem completeReport_eq (rep : TallyReport) (active : s.ticket.active = some t) : completeReport k rep s =
    match attributed t k s with
    | none => reportCounted k (decide (rep = .malformed)) true s
    | some e =>
      match (compareReport t k e rep).2 with
      | none => atCollator t (compareReport t k e rep).1 (reportCounted k (decide (rep = .malformed)) false s)
      | some f => settle (raise f (plyNumber k) e.serial
          (atCollator t (compareReport t k e rep).1 (reportCounted k (decide (rep = .malformed)) false s))) := by
  unfold completeReport
  rw [active]
  dsimp only
  rw [setReceiver_count]
  cases attributed t k s with
  | none => rfl
  | some e =>
    dsimp only
    cases (compareReport t k e rep).2 <;> rfl

theorem compareReport_first {e : SetEntry} (rep : TallyReport) (h : e.tally.get k = .none) :
    compareReport t k e rep = match verdict t k e rep with
      | .matched => (judged k .matched none e, none)
      | .mismatch => (judged k .mismatch (some .tallyMismatch) e, some .tallyMismatch)
      | .noread => (judged k .noread (some .tallyNoread) e, some .tallyNoread)
      | v => ({ e with tally := e.tally.set k v }, none) := by
  rw [compareReport, if_pos h]
  dsimp only
  cases verdict t k e rep <;> simp [tallyBlame, judged, SetEntry.mark, Cause.bit, plyBit]

theorem compareReport_later {e : SetEntry} (rep : TallyReport) (h : e.tally.get k ≠ .none) :
    compareReport t k e rep = (judged k (e.tally.get k) (some .tallyDuplicate) e, some .tallyDuplicate) := by
  rw [compareReport, if_neg h]
  simp [judged, SetEntry.mark, Cause.bit, plyBit, Six.set_get_self]

end

/-- Settles O54: an ignored report, a number that agrees and one that does not, no read, and a duplicate. -/
theorem reportComparedAtCollator : Obligations.ReportComparedAtCollator := by
  intro k rep s t active
  refine ⟨fun h => ?_, fun running enabled tally e set => ⟨fun first => ⟨fun ds v number value => ?_, fun unread => ?_⟩,
    fun later => ?_⟩⟩
  · rw [completeReport_eq rep active, attributed_none h]
  · subst number
    have value' : (e.values.get (t.plies.get k).tallyStream).getD 0 = v := by rw [value]; rfl
    rw [completeReport_eq _ active, attributed_some running enabled tally set]
    dsimp only
    rw [compareReport_first _ first, verdict]
    rw [value']
    refine ⟨fun agrees => ?_, fun differs => ?_⟩
    · rw [if_pos ((numberMatches_iff ..).2 agrees)]; rfl
    · rw [if_neg (mt (numberMatches_iff ..).1 differs)]; rfl
  · have noread : verdict t k e rep = .noread := by
      rcases unread with rfl | rfl <;> rfl
    rw [completeReport_eq rep active, attributed_some running enabled tally set]
    dsimp only
    rw [compareReport_first rep first, noread]
  · rw [completeReport_eq rep active, attributed_some running enabled tally set]
    dsimp only
    rw [compareReport_later rep later]

end Sys2Proof.Machine
end

section
/-! PROOFS. The pitch timer and the sampled inputs: encoder edges, pitch, cue and deadline events (R110 to R114) and a
sample of the 17 inputs (R105, R106). -/

namespace Sys2Proof.Machine
open Sys2Proof.Safety

/-! ## Pitch events (R111 to R114) -/

/-- A pitch event, of no fault or of CUE_LOST, is the one the statement describes. -/
theorem pitch_made {kinds : List FaultKind} (few : kinds = [] ∨ kinds = [.cueLost]) (s : State) :
    pitchMade kinds s (pitch (kinds.map fun f => (f, 0, 0)) s) := by
  have raised : ∀ u, raiseAll (kinds.map fun f => (f, 0, 0)) u = kinds.foldl (fun x f => raise f 0 0 x) u := by
    rcases few with rfl | rfl <;> exact fun u => rfl
  have counted : countMakeReady (clearEncoder s) = makeReadyCounted (newInterval s) := by
    rw [countMakeReady, satSucc_eq_satAdd]
    rfl
  have job : (clearEncoder s).ctl.job = s.ctl.job := rfl
  have ticket : (clearEncoder s).ticket.active = s.ticket.active := rfl
  unfold pitch pitchMade
  dsimp only
  rw [job, ticket]
  refine ⟨fun h => ?_, fun h => ?_, fun h t active => ?_⟩
  · rcases h with h | h <;> rw [h] <;> exact (raised _).trans (congrArg (kinds.foldl (fun x f => raise f 0 0 x)) counted)
  · rw [h]
    exact raised _
  · cases state : s.ctl.job with
    | idle | ready | closing =>
      rw [state] at h
      exact absurd h (by decide)
    | run | hold | drain | halted =>
      rw [active] <;> rfl

theorem pitchDue_iff (t : Ticket) (n : Nat) : pitchDue t n = true ↔ t.source = .count ∧ t.formLength ≤ n := by
  simp [pitchDue]

theorem lostDue_iff (t : Ticket) (n : Nat) : lostDue t n = true ↔ t.source = .cue ∧ 5 * t.formLength ≤ 4 * n := by
  have limit : (5 * t.formLength + 3) / 4 ≤ n ↔ 5 * t.formLength ≤ 4 * n := by omega
  simp [lostDue, lostLimit, limit]

theorem deadlineDue_iff (t : Ticket) (m : PitchTimer) :
    deadlineDue t m = true ↔ m.deadlineMade = false ∧ t.deadline ≤ m.encoder.toNat := by
  simp [deadlineDue]

theorem not_and_eq_true_iff (a b : Bool) : (!a && b) = true ↔ a = false ∧ b = true := by
  cases a <;> simp

section
variable {s : State} {t : Ticket}

theorem exec_encEdge {rising : Bool} (works : s.resetting = false) (enabled : (setting s inEnc).enabled = true)
    (edge : rising = !(setting s inEnc).inverted) : exec (.encEdge rising) s =
      .next { quiet s with timer := { s.timer with encoder := satAdd s.timer.encoder 1 } } := by
  have settings : setting (begin s) inEnc = setting s inEnc := rfl
  have counts : ((setting s inEnc).enabled && (rising != (setting s inEnc).inverted)) = true := by simp [enabled, edge]
  refine congrArg Host.Outcome.next ((if_neg (by rw [show (begin s).resetting = s.resetting from rfl, works]; simp)).trans ?_)
  rw [countEncoder, settings, if_pos counts, satSucc_eq_satAdd]
  rfl

theorem exec_encEdge_none {rising : Bool} (h : s.resetting = true ∨ (setting s inEnc).enabled = false ∨
    rising = (setting s inEnc).inverted) : exec (.encEdge rising) s = .next (quiet s) := by
  have settings : setting (begin s) inEnc = setting s inEnc := rfl
  refine congrArg Host.Outcome.next ?_
  dsimp only
  split
  next => rfl
  next works =>
    have off : ¬((setting s inEnc).enabled && (rising != (setting s inEnc).inverted)) = true := by
      rcases h with h | h | h
      · exact absurd h works
      · simp [h]
      · simp [h]
    rw [countEncoder, settings, if_neg off]
    rfl

theorem exec_pitchEvent (active : s.ticket.active = some t) : exec .pitchEvent s = .next
    (if s.resetting = false ∧ t.source = .count ∧ t.formLength ≤ s.timer.encoder.toNat then pitch [] (quiet s)
     else quiet s) := by
  refine congrArg Host.Outcome.next ?_
  dsimp only
  rw [show (begin s).ticket.active = some t from active]
  exact if_congr ((not_and_eq_true_iff ..).trans (and_congr_right' (pitchDue_iff ..))) rfl rfl

theorem exec_syntheticPitchEvent (active : s.ticket.active = some t) : exec .syntheticPitchEvent s = .next
    (if s.resetting = false ∧ t.source = .cue ∧ 5 * t.formLength ≤ 4 * s.timer.encoder.toNat then
      pitch [(.cueLost, 0, 0)] (quiet s) else quiet s) := by
  refine congrArg Host.Outcome.next ?_
  dsimp only
  rw [show (begin s).ticket.active = some t from active]
  exact if_congr ((not_and_eq_true_iff ..).trans (and_congr_right' (lostDue_iff ..))) rfl rfl

theorem exec_pitchEvents_none (h : s.resetting = true ∨ s.ticket.active = none) :
    exec .pitchEvent s = .next (quiet s) ∧ exec .syntheticPitchEvent s = .next (quiet s) := by
  cases active : s.ticket.active with
  | none =>
    have none_begin : (begin s).ticket.active = none := active
    exact ⟨congrArg Host.Outcome.next (by dsimp only; rw [none_begin] <;> rfl),
      congrArg Host.Outcome.next (by dsimp only; rw [none_begin] <;> rfl)⟩
  | some t =>
    have resets : ¬s.resetting = false := by
      rcases h with h | h
      · simp [h]
      · exact absurd (active.symm.trans h) (by simp)
    rw [exec_pitchEvent active, exec_syntheticPitchEvent active, if_neg fun h => resets h.1, if_neg fun h => resets h.1]
    exact ⟨rfl, rfl⟩

/-! ## Cues (R112, R114) -/

theorem takeCue_idle (none : s.ticket.active = none) : takeCue s = pitch [] s := by
  rw [takeCue, none]

theorem takeCue_count (active : s.ticket.active = some t) (source : t.source = .count) : takeCue s = s := by
  rw [takeCue, active]
  dsimp only
  rw [source]

theorem takeCue_cue (active : s.ticket.active = some t) (source : t.source = .cue) : takeCue s =
    if (setting s inEnc).enabled = true ∧ 2 * s.timer.encoder.toNat < t.formLength then
      { s with timer := { s.timer with earlyCues := satAdd s.timer.earlyCues 1 } }
    else pitch [] s := by
  rw [takeCue, active]
  dsimp only
  rw [source, satSucc_eq_satAdd]
  exact if_congr (by simp [cueEarly]) rfl rfl

/-! ## The deadline (R41, R111, R112) -/

theorem exec_deadlineEvent (active : s.ticket.active = some t) : exec .deadlineEvent s = .next
    (if s.resetting = false ∧ s.timer.deadlineMade = false ∧ t.deadline ≤ s.timer.encoder.toNat then deadline t (quiet s)
     else quiet s) := by
  refine congrArg Host.Outcome.next ?_
  dsimp only
  rw [show (begin s).ticket.active = some t from active]
  exact if_congr ((not_and_eq_true_iff ..).trans (and_congr_right' (deadlineDue_iff ..))) rfl rfl

theorem exec_deadlineEvent_none (none : s.ticket.active = none) : exec .deadlineEvent s = .next (quiet s) :=
  congrArg Host.Outcome.next (by dsimp only; rw [show (begin s).ticket.active = Option.none from none] <;> rfl)

end

/-- Settles O38: encoder edges, pitch and synthetic pitch events, and cue edges by the source. -/
theorem timerEventsBySource : Obligations.TimerEventsBySource := by
  intro rising s
  have settings : setting (edgeState 1 s) inEnc = setting s inEnc :=
    congrArg (settingUnder · inEnc) (congrArg _ (edgeState_ticket ..))
  have taken : EdgeTaken 1 s → exec .cueEdge s = .next (takeCue (edgeState 1 s)) := onEdge_taken (n := inCue)
  refine ⟨exec_encEdge, exec_encEdge_none, fun t works active source due => ?_, fun t works active source due => ?_,
    fun t active => ⟨fun h => ?_, fun h => ?_⟩, exec_pitchEvents_none, fun edge none => ?_, fun t edge active =>
    ⟨fun source => ?_, fun source => ⟨fun enabled early => ?_, fun h => ?_⟩⟩⟩
  · exact ⟨_, (exec_pitchEvent active).trans (congrArg _ (if_pos ⟨works, source, due⟩)), pitch_made (.inl rfl) _⟩
  · exact ⟨_, (exec_syntheticPitchEvent active).trans (congrArg _ (if_pos ⟨works, source, due⟩)), pitch_made (.inr rfl) _⟩
  · rw [exec_pitchEvent active, if_neg]
    rintro ⟨_, source, due⟩
    rcases h with h | h
    · simp [source] at h
    · omega
  · rw [exec_syntheticPitchEvent active, if_neg]
    rintro ⟨_, source, due⟩
    rcases h with h | h
    · simp [source] at h
    · omega
  · exact ⟨_, (taken edge).trans (congrArg _ (takeCue_idle (by simpa using none))), pitch_made (.inl rfl) _⟩
  · rw [taken edge, takeCue_count (by simpa using active) source]
  · rw [taken edge, takeCue_cue (by simpa using active) source, settings, edgeState_timer, if_pos ⟨enabled, early⟩]
  · refine ⟨_, (taken edge).trans ?_, pitch_made (.inl rfl) _⟩
    rw [takeCue_cue (by simpa using active) source, settings, edgeState_timer, if_neg]
    · rfl
    · rintro ⟨enabled, early⟩
      rcases h with h | h
      · simp [enabled] at h
      · omega

/-- Settles O39, by the deadline's conditions and the job state. -/
theorem deadlineEventChecks : Obligations.DeadlineEventChecks := by
  intro s
  refine ⟨fun h => ?_, fun t works active => ⟨fun h => ?_, fun new due => ⟨fun running => ?_, fun still => ?_⟩⟩⟩
  · cases active : s.ticket.active with
    | none => exact exec_deadlineEvent_none active
    | some t =>
      rw [exec_deadlineEvent active, if_neg]
      rintro ⟨works, -, -⟩
      simp [works, active] at h
  · rw [exec_deadlineEvent active, if_neg]
    rintro ⟨-, new, due⟩
    rcases h with h | h
    · simp [new] at h
    · omega
  · rw [exec_deadlineEvent active, if_pos ⟨works, new, due⟩]
    exact congrArg Host.Outcome.next (if_pos running)
  · rw [exec_deadlineEvent active, if_pos ⟨works, new, due⟩]
    exact congrArg Host.Outcome.next (if_neg (fun running => Bool.false_ne_true (still.symm.trans running)))

/-! ## A sample of the inputs (R105, R106) -/

theorem setLevel_getLsbD (a : BitVec 18) (n m : Fin 18) (b : Bool) :
    (setLevel a n b).getLsbD m.val = if m = n then b else a.getLsbD m.val := by
  have bit : (BitVec.twoPow 18 n.val).getLsbD m.val = decide (m = n) := by
    rw [BitVec.getLsbD_twoPow]
    simp [Fin.ext_iff, eq_comm]
  cases b with
  | false => simp only [setLevel, Bool.false_eq_true, if_false, BitVec.getLsbD_and, BitVec.getLsbD_not, bit]; split <;> simp_all
  | true => simp only [setLevel, if_true, BitVec.getLsbD_or, bit]; split <;> simp_all

/-- The run count of an input after a sample. -/
def runAfter (levels : BitVec 18) (s : State) (n : Fin 18) : BitVec 2 :=
  if levels.getLsbD n.val ≠ s.lines.accepted.getLsbD n.val ∧ (s.lines.runs.getD n.val 0).toNat < (setting s n).debounce
  then s.lines.runs.getD n.val 0 + 1 else 0

/-- The line monitor when the inputs of a list have been sampled, and no other. -/
structure SampledInputs (levels : BitVec 18) (s : State) (ns : List (Fin 18)) (m : LineMonitor) : Prop where
  frame : m = { s.lines with accepted := m.accepted, runs := m.runs, raised := m.raised, glitches := m.glitches }
  length : m.runs.length = 18
  glitches : m.glitches = satAdd s.lines.glitches (ns.filter fun n => decide (Glitched levels s n)).length
  raised : m.raised = s.lines.raised ++ ns.filter fun n => decide (EdgeAt levels s n)
  accepted : ∀ n : Fin 18, m.accepted.getLsbD n.val =
    if n ∈ ns ∧ Accepted levels s n then levels.getLsbD n.val else s.lines.accepted.getLsbD n.val
  runs : ∀ n : Fin 18, m.runs.getD n.val 0 = if n ∈ ns then runAfter levels s n else s.lines.runs.getD n.val 0

theorem satAdd_satAdd_one (w : Word) (n : Nat) : satAdd (satAdd w n) 1 = satAdd w (n + 1) := by
  apply BitVec.eq_of_toNat_eq
  simp only [satAdd, BitVec.toNat_ofNat]
  omega

/-- One input at a sample: its bit, its run count, its edge and its glitch. -/
theorem sampleInput_eq (st : LineSetting) (levels : BitVec 18) {n : Fin 18} {m : LineMonitor} (line : 1 ≤ n.val)
    (length : m.runs.length = 18) : sampleInput st levels n m =
    let x := levels.getLsbD n.val
    let differs : Prop := x ≠ m.accepted.getLsbD n.val
    let run := m.runs.getD n.val 0
    { m with
      accepted := if differs ∧ st.debounce ≤ run.toNat then setLevel m.accepted n x else m.accepted
      runs := m.runs.set n.val (if differs ∧ run.toNat < st.debounce then run + 1 else 0)
      raised := m.raised ++ if (differs ∧ st.debounce ≤ run.toNat) ∧ n.val ≤ 14 ∧ st.enabled = true ∧ x = !st.inverted
        then [n] else []
      glitches := if x = m.accepted.getLsbD n.val ∧ run ≠ 0 then satSucc m.glitches else m.glitches } := by
  have inside : n.val < m.runs.length := length.symm ▸ n.isLt
  have here : m.runs.getD n.val 0 = m.runs[n.val] := List.getD_eq_getElem _ _ inside
  have edge : (isEdgeInput n && st.enabled && (levels.getLsbD n.val != st.inverted)) = true ↔
      n.val ≤ 14 ∧ st.enabled = true ∧ levels.getLsbD n.val = !st.inverted := by
    cases levels.getLsbD n.val <;> cases st.inverted <;> simp [isEdgeInput, line]
  unfold sampleInput
  by_cases same : levels.getLsbD n.val = m.accepted.getLsbD n.val
  · by_cases still : m.runs.getD n.val 0 = 0
    · have kept : m.runs.set n.val 0 = m.runs := by
        rw [← still, here, List.set_getElem_self]
      simp only [same, still, kept, ne_eq, not_true_eq_false, false_and, and_false, if_true, if_false, List.append_nil]
    · simp only [same, still, ne_eq, not_true_eq_false, not_false_eq_true, false_and, and_self, if_true, if_false,
        List.append_nil]
  · by_cases waits : (m.runs.getD n.val 0).toNat < st.debounce
    · simp only [same, waits, Nat.not_le.2 waits, ne_eq, not_false_eq_true, and_false, false_and, and_self, if_true,
        if_false, List.append_nil]
    · have ready : st.debounce ≤ (m.runs.getD n.val 0).toNat := Nat.le_of_not_lt waits
      simp only [same, waits, ready, edge, ne_eq, not_false_eq_true, and_false, false_and, true_and, and_self, if_true,
        if_false]
      split <;> simp

theorem SampledInputs.next {levels : BitVec 18} {s : State} {ns : List (Fin 18)} {m : LineMonitor} {n : Fin 18}
    (h : SampledInputs levels s ns m) (line : 1 ≤ n.val) (new : n ∉ ns) :
    SampledInputs levels s (ns ++ [n]) (sampleInput (setting s n) levels n m) := by
  have bit : m.accepted.getLsbD n.val = s.lines.accepted.getLsbD n.val :=
    (h.accepted n).trans (if_neg fun both => new both.1)
  have run : m.runs.getD n.val 0 = s.lines.runs.getD n.val 0 := (h.runs n).trans (if_neg new)
  rw [sampleInput_eq _ _ line h.length, bit, run]
  dsimp only
  refine ⟨?_, by rw [List.length_set, h.length], ?_, ?_, fun j => ?_, fun j => ?_⟩
  · dsimp only
    rw [h.frame]
  · rw [h.glitches, satSucc_eq_satAdd, satAdd_satAdd_one, List.filter_append, List.length_append, List.filter_singleton]
    by_cases glitched : Glitched levels s n
    · rw [if_pos glitched, decide_eq_true glitched]; rfl
    · rw [if_neg glitched, decide_eq_false glitched]; rfl
  · rw [h.raised, List.filter_append, List.append_assoc, List.filter_singleton]
    by_cases edge : EdgeAt levels s n
    · rw [if_pos edge, decide_eq_true edge]; rfl
    · rw [if_neg edge, decide_eq_false edge]; rfl
  · by_cases same : j = n
    · subst same
      by_cases taken : Accepted levels s j
      · rw [if_pos taken, setLevel_getLsbD, if_pos rfl, if_pos ⟨by simp, taken⟩]
      · rw [if_neg taken, bit, if_neg fun both => taken both.2]
    · have other : (if Accepted levels s n then setLevel m.accepted n (levels.getLsbD n.val) else m.accepted).getLsbD j.val =
          m.accepted.getLsbD j.val := by
        split
        · rw [setLevel_getLsbD, if_neg same]
        · rfl
      rw [other, h.accepted j]
      simp [same]
  · rw [List.getD_eq_getElem?_getD, List.getElem?_set]
    by_cases same : j = n
    · subst same
      rw [if_pos rfl, if_pos (by rw [h.length]; exact j.isLt),
        if_pos (show j ∈ ns ++ [j] from List.mem_append_right _ (List.mem_singleton_self j))]
      rfl
    · rw [if_neg (by simpa [Fin.ext_iff, eq_comm] using same), ← List.getD_eq_getElem?_getD, h.runs j]
      simp [same]

theorem sampledInputs_none {levels : BitVec 18} {s : State} (length : s.lines.runs.length = 18) :
    SampledInputs levels s [] s.lines :=
  ⟨rfl, length, by simp [satAdd, Nat.min_eq_left (Nat.lt_succ_iff.1 s.lines.glitches.isLt)], by simp, fun n => by simp,
    fun n => by simp⟩

/-- The inputs of a list sampled one after the other. -/
theorem sampledInputs_foldl {levels : BitVec 18} {s : State} (length : s.lines.runs.length = 18) (ns : List (Fin 18)) :
    ns.Nodup → (∀ n ∈ ns, 1 ≤ n.val) →
      SampledInputs levels s ns (ns.foldl (fun m n => sampleInput (setting s n) levels n m) s.lines) := by
  induction ns using List.reverseRecOn with
  | nil => exact fun _ _ => sampledInputs_none length
  | append_singleton ns n ih =>
    intro nodup lines
    obtain ⟨first, -, apart⟩ := List.nodup_append.1 nodup
    rw [List.foldl_append]
    exact (ih first fun k hk => lines k (by simp [hk])).next (lines n (by simp)) fun hn => apart n hn n (by simp) rfl

theorem mem_sampledInputs {n : Fin 18} : n ∈ sampledInputs ↔ n ≠ 0 := by
  revert n
  decide

/-- Settles O50: a sample during a reset, the first after it, and each later one, input by input. -/
theorem lineSampleTaken : Obligations.LineSampleTaken := by
  refine fun levels s => ⟨fun h => congrArg Host.Outcome.next (if_pos h), fun works first => ?_, fun works later length => ?_⟩
  · exact congrArg Host.Outcome.next ((if_neg (by simp [works])).trans (if_neg (by simp [begin, State.setBus, first])))
  · have taken : SampledInputs levels s sampledInputs _ := sampledInputs_foldl length sampledInputs (by decide) (by decide)
    refine ⟨_, congrArg Host.Outcome.next ((if_neg (by simp [works])).trans (if_pos later)), taken.frame, taken.glitches,
      taken.raised, fun n line => ⟨fun same => ?_, fun differs waits => ?_, fun accepted => ?_⟩⟩
    · have still : ¬Accepted levels s n := fun h => h.1 same
      exact ⟨(taken.accepted n).trans (if_neg fun both => still both.2),
        (taken.runs n).trans ((if_pos (mem_sampledInputs.2 line)).trans (if_neg fun h => h.1 same))⟩
    · have still : ¬Accepted levels s n := fun h => Nat.not_le.2 waits h.2
      exact ⟨(taken.accepted n).trans (if_neg fun both => still both.2),
        (taken.runs n).trans ((if_pos (mem_sampledInputs.2 line)).trans (if_pos ⟨differs, waits⟩))⟩
    · exact ⟨(taken.accepted n).trans (if_pos ⟨mem_sampledInputs.2 line, accepted⟩),
        (taken.runs n).trans ((if_pos (mem_sampledInputs.2 line)).trans (if_neg fun h => Nat.not_le.2 h.2 accepted.2))⟩

end Sys2Proof.Machine
end

section
/-! PROOFS. The image checks and the tally check, ply by ply (R32, R33, R41). -/

namespace Sys2Proof.Machine
open Sys2Proof.Safety

theorem plyBit_getLsbD (k j : Ply) : (plyBit k).getLsbD j.val = decide (j = k) := by
  rw [plyBit, BitVec.getLsbD_twoPow]
  simp [Fin.ext_iff, eq_comm]

theorem mark_ply_getLsbD (e : SetEntry) (c : Cause) (k j : Ply) :
    (e.mark c (some k)).plies.getLsbD j.val = (e.plies.getLsbD j.val || decide (j = k)) := by
  simp only [SetEntry.mark, BitVec.getLsbD_or, Option.map_some, Option.getD_some, plyBit_getLsbD]

theorem imageMissed_getLsbD (n : Nat) : Cause.imageMissed.bit.getLsbD n = decide (n = 1) := by
  rw [Cause.bit, BitVec.getLsbD_twoPow]
  simp [Cause.num, eq_comm]

theorem tallyMissing_getLsbD (n : Nat) : Cause.tallyMissing.bit.getLsbD n = decide (n = 6) := by
  rw [Cause.bit, BitVec.getLsbD_twoPow]
  simp [Cause.num, eq_comm]

/-! ## One entry's image checks -/

/-- The image state of ply k after its check at position p. -/
def imageAfter (t : Ticket) (p : Nat) (e : SetEntry) (k : Ply) : ImageState :=
  if MissesImage t p e k then .missed
  else if (t.plies.get k).enabled = true ∧ 0 < (t.plies.get k).fields ∧ t.headPos k = p ∧ e.image.get k = .none
    then .imaged
  else e.image.get k

/-- A set at position p when the plies of a list have been checked, and no other. -/
structure ImageJudged (t : Ticket) (p : Nat) (ks : List Ply) (e e' : SetEntry) : Prop where
  frame : e' = { e with image := e'.image, causes := e'.causes, plies := e'.plies }
  image : ∀ k, e'.image.get k = if k ∈ ks then imageAfter t p e k else e.image.get k
  causes : ∀ n, e'.causes.getLsbD n = (e.causes.getLsbD n || decide (n = 1 ∧ ∃ k ∈ ks, MissesImage t p e k))
  plies : ∀ k : Ply, e'.plies.getLsbD k.val = (e.plies.getLsbD k.val || decide (k ∈ ks ∧ MissesImage t p e k))

section
variable {t : Ticket} {p : Nat} {ks : List Ply} {e e' : SetEntry} {k : Ply}

theorem imageJudged_none : ImageJudged t p [] e e := ⟨rfl, by simp, by simp, by simp⟩

/-- A ply that is not found missed: at most its own image state changes. -/
theorem ImageJudged.unmissed {image : Six ImageState} (h : ImageJudged t p ks e e') (hits : ¬MissesImage t p e k)
    (own : image.get k = imageAfter t p e k) (others : ∀ j, j ≠ k → image.get j = e'.image.get j) :
    ImageJudged t p (ks ++ [k]) e { e' with image := image } := by
  refine ⟨by rw [h.frame], fun j => ?_, fun n => ?_, fun j => ?_⟩
  · by_cases same : j = k
    · subst same; simp [own]
    · simp [same, others j same, h.image j]
  · rw [h.causes n]
    simp [or_and_right, exists_or, hits]
  · rw [h.plies j]
    by_cases same : j = k
    · subst same; simp [hits]
    · simp [same]

theorem ImageJudged.kept (h : ImageJudged t p ks e e') (new : k ∉ ks) (hits : ¬MissesImage t p e k)
    (still : imageAfter t p e k = e.image.get k) : ImageJudged t p (ks ++ [k]) e e' :=
  h.unmissed hits (((h.image k).trans (if_neg new)).trans still.symm) fun _ _ => rfl

/-- A ply that is not checked here. -/
theorem ImageJudged.skip (h : ImageJudged t p ks e e') (new : k ∉ ks)
    (off : ¬((t.plies.get k).enabled = true ∧ 0 < (t.plies.get k).fields ∧ t.headPos k = p)) :
    ImageJudged t p (ks ++ [k]) e e' := by
  have hits : ¬MissesImage t p e k := fun ⟨enabled, here, _, few⟩ => off ⟨enabled, Nat.zero_lt_of_lt few, here⟩
  refine h.kept new hits ?_
  rw [imageAfter, if_neg hits, if_neg fun ⟨enabled, used, here, _⟩ => off ⟨enabled, used, here⟩]

/-- A ply checked here. -/
theorem ImageJudged.next (h : ImageJudged t p ks e e') (new : k ∉ ks) (enabled : (t.plies.get k).enabled = true)
    (used : 0 < (t.plies.get k).fields) (here : t.headPos k = p) :
    ImageJudged t p (ks ++ [k]) e (e'.checkImage k (t.plies.get k).fields) := by
  have state : e'.image.get k = e.image.get k := (h.image k).trans (if_neg new)
  have fields : e'.fields = e.fields := by rw [h.frame]
  unfold SetEntry.checkImage
  rw [state]
  by_cases first : e.image.get k = .none
  · rw [if_neg (not_not.2 first)]
    by_cases enough : (t.plies.get k).fields ≤ (e'.fields.get k).toNat
    · have hits : ¬MissesImage t p e k := fun ⟨_, _, _, few⟩ => Nat.not_le.2 few (fields ▸ enough)
      rw [if_pos enough]
      refine h.unmissed hits ?_ fun j other => Six.get_set_other _ _ (Ne.symm other)
      rw [Six.get_set_same, imageAfter, if_neg hits, if_pos ⟨enabled, used, here, first⟩]
    · have missed : MissesImage t p e k := ⟨enabled, here, first, fields ▸ Nat.lt_of_not_le enough⟩
      rw [if_neg enough]
      refine ⟨by rw [h.frame]; rfl, fun j => ?_, fun n => ?_, fun j => ?_⟩
      · rw [SetEntry.mark, Six.get_set]
        by_cases same : j = k
        · subst same
          rw [if_pos rfl, if_pos (by simp), imageAfter, if_pos missed]
        · simp [same, h.image j]
      · have any : ∃ j ∈ ks ++ [k], MissesImage t p e j := ⟨k, by simp, missed⟩
        rw [SetEntry.mark, BitVec.getLsbD_or, imageMissed_getLsbD, h.causes n]
        by_cases one : n = 1
        · rw [decide_eq_true one, decide_eq_true (And.intro one any), Bool.or_true, Bool.or_true]
        · simp [one]
      · rw [mark_ply_getLsbD, h.plies j]
        by_cases same : j = k
        · subst same
          have both : j ∈ ks ++ [j] ∧ MissesImage t p e j := ⟨by simp, missed⟩
          simp only [decide_true, decide_eq_true both, Bool.or_true]
        · simp [same]
  · rw [if_pos first]
    refine h.kept new (fun ⟨_, _, still, _⟩ => first still) ?_
    rw [imageAfter, if_neg fun ⟨_, _, still, _⟩ => first still, if_neg fun ⟨_, _, _, still⟩ => first still]

end

/-! ## The image checks of the pipeline -/

/-- The fault ply k's image check raises. -/
def imageFault (t : Ticket) (es : List Entry) (k : Ply) : List (FaultKind × BitVec 3 × Word) :=
  match es[t.headPos k]? with
  | some (.set e) => if MissesImage t (t.headPos k) e k then [(.imageMissed, plyNumber k, e.serial)] else []
  | _ => []

theorem mem_imageFault {t : Ticket} {es : List Entry} {k : Ply} {x : FaultKind × BitVec 3 × Word} : x ∈ imageFault t es k ↔
    ∃ e, es[t.headPos k]? = some (.set e) ∧ MissesImage t (t.headPos k) e k ∧ x = (.imageMissed, plyNumber k, e.serial) := by
  unfold imageFault
  split
  next e here =>
    rw [here]
    by_cases missed : MissesImage t (t.headPos k) e k
    · rw [if_pos missed, List.mem_singleton]
      exact ⟨fun h => ⟨e, rfl, missed, h⟩, fun ⟨_, same, _, h⟩ => by cases same; exact h⟩
    · rw [if_neg missed]
      exact ⟨fun h => absurd h List.not_mem_nil, fun ⟨_, same, h, _⟩ => by cases same; exact absurd h missed⟩
  next none =>
    exact ⟨fun h => absurd h List.not_mem_nil, fun ⟨e, here, _⟩ => absurd here (none e)⟩

theorem plyNumber_injective : Function.Injective plyNumber := by
  intro j k
  revert j k
  decide

theorem imageFaults_nodup (t : Ticket) (es : List Entry) : (plies.flatMap (imageFault t es)).Nodup := by
  refine List.nodup_flatMap.2 ⟨fun k _ => ?_, ?_⟩
  · unfold imageFault
    split
    next e _ => split <;> simp
    next => exact List.nodup_nil
  · refine List.Pairwise.imp (fun {j k} apart => ?_) (show plies.Nodup by decide)
    intro x hj hk
    obtain ⟨_, -, -, rfl⟩ := mem_imageFault.1 hj
    obtain ⟨_, -, -, same⟩ := mem_imageFault.1 hk
    exact apart (plyNumber_injective (congrArg (fun x => x.2.1) same))

/-- The entries and faults when the plies of a list have been checked, and no other. -/
structure ImagesJudged (t : Ticket) (es : List Entry) (ks : List Ply)
    (r : List Entry × List (FaultKind × BitVec 3 × Word)) : Prop where
  length : r.1.length = es.length
  others : ∀ p : Nat, (∀ e, es[p]? ≠ some (Entry.set e)) → r.1[p]? = es[p]?
  sets : ∀ (p : Nat) (e : SetEntry), es[p]? = some (.set e) →
    ∃ e', r.1[p]? = some (.set e') ∧ ImageJudged t p ks e e'
  faults : r.2 = ks.flatMap (imageFault t es)

section
variable {t : Ticket} {es : List Entry} {ks : List Ply} {r : List Entry × List (FaultKind × BitVec 3 × Word)} {k : Ply}

/-- A ply whose check finds no set: disabled, without fields, or no set at its head position. -/
theorem ImagesJudged.skip (h : ImagesJudged t es ks r) (new : k ∉ ks)
    (off : (t.plies.get k).enabled = true → 0 < (t.plies.get k).fields → ∀ e, es[t.headPos k]? ≠ some (.set e)) :
    ImagesJudged t es (ks ++ [k]) (r.1, r.2 ++ []) := by
  refine ⟨h.length, h.others, fun p e here => ?_, ?_⟩
  · obtain ⟨e', place, judged⟩ := h.sets p e here
    refine ⟨e', place, judged.skip new fun ⟨enabled, used, head⟩ => ?_⟩
    subst head
    exact off enabled used e here
  · have quiet : imageFault t es k = [] := List.eq_nil_iff_forall_not_mem.2 fun x hx => by
      obtain ⟨e, here, ⟨enabled, -, -, few⟩, -⟩ := mem_imageFault.1 hx
      exact off enabled (Nat.zero_lt_of_lt few) e here
    simp [h.faults, quiet]

theorem ImagesJudged.next (h : ImagesJudged t es ks r) (new : k ∉ ks) :
    ImagesJudged t es (ks ++ [k]) ((imageCheck t k r.1).1, r.2 ++ (imageCheck t k r.1).2) := by
  unfold imageCheck
  dsimp only
  split
  next off =>
    refine h.skip new fun enabled used => ?_
    simp only [enabled, Bool.not_true, Bool.false_or, beq_iff_eq] at off
    omega
  next on =>
    simp only [Bool.or_eq_true, Bool.not_eq_true', beq_iff_eq, not_or, Bool.not_eq_false] at on
    obtain ⟨enabled, fields⟩ := on
    have used := Nat.pos_of_ne_zero fields
    split
    next e' place =>
      have inside : r.1[t.headPos k]? = some (.set e') := by
        rw [List.getD_eq_getElem?_getD] at place
        cases found : r.1[t.headPos k]? with
        | none => rw [found] at place; cases place
        | some x => rw [found] at place; exact congrArg some place
      obtain ⟨e, here⟩ : ∃ e, es[t.headPos k]? = some (.set e) := by
        by_contra none
        exact none ⟨e', (h.others _ fun e here => none ⟨e, here⟩).symm.trans inside⟩
      obtain ⟨e₂, place', judged⟩ := h.sets _ e here
      have same : e₂ = e' := by
        rw [inside] at place'
        cases place'
        rfl
      subst same
      have state : e₂.image.get k = e.image.get k := (judged.image k).trans (if_neg new)
      have count : e₂.fields = e.fields := by rw [judged.frame]
      have serial : e₂.serial = e.serial := by rw [judged.frame]
      refine ⟨by rw [List.length_modify, h.length], fun p none => ?_, fun p e₁ at_p => ?_, ?_⟩
      · have apart : t.headPos k ≠ p := fun same => none e (same ▸ here)
        exact (List.getElem?_modify_ne _ _ apart).trans (h.others p none)
      · by_cases same : t.headPos k = p
        · subst same
          have same : e₁ = e := by
            rw [here] at at_p
            cases at_p
            rfl
          subst same
          exact ⟨_, by rw [List.getElem?_modify_eq, inside]; rfl, judged.next new enabled used rfl⟩
        · obtain ⟨e₁', place₁, judged₁⟩ := h.sets p e₁ at_p
          exact ⟨e₁', (List.getElem?_modify_ne _ _ same).trans place₁, judged₁.skip new fun off => same off.2.2⟩
      · have fault : imageFault t es k =
            if e₂.missesImage k (t.plies.get k).fields then [(.imageMissed, plyNumber k, e₂.serial)] else [] := by
          rw [imageFault, here, serial]
          exact if_congr (by simp [SetEntry.missesImage, MissesImage, state, count, enabled]) rfl rfl
        simp [h.faults, fault]
    next none =>
      refine h.skip new fun _ _ e here => ?_
      obtain ⟨e', place, -⟩ := h.sets _ e here
      exact none e' (by rw [List.getD_eq_getElem?_getD, place]; rfl)

end

theorem imagesJudged_foldl (t : Ticket) (es : List Entry) (ks : List Ply) (nodup : ks.Nodup) : ImagesJudged t es ks
    (ks.foldl (fun acc k => let r := imageCheck t k acc.1; (r.1, acc.2 ++ r.2)) (es, [])) := by
  induction ks using List.reverseRecOn with
  | nil => exact ⟨rfl, fun _ _ => rfl, fun _ e here => ⟨e, here, imageJudged_none⟩, rfl⟩
  | append_singleton ks k ih =>
    obtain ⟨first, -, apart⟩ := List.nodup_append.1 nodup
    rw [List.foldl_append]
    exact (ih first).next fun hk => apart k hk k (by simp) rfl

theorem imageChecks_judged (t : Ticket) (es : List Entry) : ImagesJudged t es plies (imageChecks t es) :=
  imagesJudged_foldl t es plies (by decide)

/-! ## The tally check (R33) -/

theorem missesTally_iff (t : Ticket) (e : SetEntry) (k : Ply) : missesTally t e k = true ↔ MissesTally t e k := by
  simp [missesTally, MissesTally, and_assoc]

/-- A set with the tally of one ply found missing. -/
def missTally (e : SetEntry) (k : Ply) : SetEntry :=
  { e with tally := e.tally.set k .missing }.mark .tallyMissing (some k)

/-- A set with the tallies of a list of plies found missing. -/
structure TallyJudged (ks : List Ply) (e e' : SetEntry) : Prop where
  frame : e' = { e with tally := e'.tally, causes := e'.causes, plies := e'.plies }
  tally : ∀ k, e'.tally.get k = if k ∈ ks then .missing else e.tally.get k
  causes : ∀ n, e'.causes.getLsbD n = (e.causes.getLsbD n || decide (n = 6 ∧ ∃ k, k ∈ ks))
  plies : ∀ k : Ply, e'.plies.getLsbD k.val = (e.plies.getLsbD k.val || decide (k ∈ ks))

theorem tallyJudged_foldl (e : SetEntry) (ks : List Ply) : TallyJudged ks e
    (ks.foldl missTally e) := by
  induction ks using List.reverseRecOn with
  | nil => exact ⟨rfl, by simp, by simp, by simp⟩
  | append_singleton ks k ih =>
    rw [List.foldl_concat]
    generalize ks.foldl missTally e = e' at ih ⊢
    refine ⟨by rw [ih.frame]; rfl, fun j => ?_, fun n => ?_, fun j => ?_⟩
    · rw [missTally, SetEntry.mark, Six.get_set, ih.tally j]
      by_cases same : j = k
      · subst same; simp
      · simp [same]
    · have any : ∃ j, j ∈ ks ++ [k] := ⟨k, by simp⟩
      rw [missTally, SetEntry.mark, BitVec.getLsbD_or, tallyMissing_getLsbD, ih.causes n]
      by_cases six : n = 6
      · have both : n = 6 ∧ ∃ j, j ∈ ks ++ [k] := ⟨six, any⟩
        rw [decide_eq_true six, decide_eq_true both, Bool.or_true, Bool.or_true]
      · simp [six]
    · rw [missTally, mark_ply_getLsbD, ih.plies j]
      by_cases same : j = k
      · subst same; simp
      · simp [same]

section
variable {t : Ticket} {es : List Entry}

theorem tallyCheck_set {e : SetEntry} (here : es[t.collator]? = some (.set e)) : tallyCheck t es =
    (es.modify t.collator fun _ => .set ((plies.filter (missesTally t e)).foldl missTally e),
      (plies.filter (missesTally t e)).map fun k => (.tallyMissing, plyNumber k, e.serial)) := by
  have place : es.getD t.collator .blank = .set e := by rw [List.getD_eq_getElem?_getD, here]; rfl
  rw [tallyCheck, place] <;> rfl

theorem tallyCheck_none (none : ∀ e, es[t.collator]? ≠ some (Entry.set e)) : tallyCheck t es = (es, []) := by
  unfold tallyCheck
  split
  next e place =>
    rw [List.getD_eq_getElem?_getD] at place
    cases found : es[t.collator]? with
    | none => rw [found] at place; cases place
    | some x => rw [found] at place; exact absurd (found.trans (congrArg some place)) (none e)
  next => rfl

end

/-- Settles O40: the image checks ply by ply, and the tally check of the set at the collator. -/
theorem imageChecksJudgeHeads : Obligations.ImageChecksJudgeHeads := by
  refine ⟨fun t es => ?_, fun t es => ?_⟩
  · have judged := imageChecks_judged t es
    refine ⟨judged.length, judged.others, fun p e here => ?_, ?_, fun x => ?_⟩
    · obtain ⟨e', place, frame, image, causes, bits⟩ := judged.sets p e here
      exact ⟨e', place, frame, fun k => (image k).trans (if_pos (mem_plies k)),
        fun n => (causes n).trans (by simp [mem_plies]), fun k => (bits k).trans (by simp [mem_plies])⟩
    · rw [judged.faults]
      exact imageFaults_nodup t es
    · rw [judged.faults, List.mem_flatMap]
      simp only [mem_plies, true_and, mem_imageFault]
  · refine ⟨fun p apart => ?_, tallyCheck_none, fun e here => ?_⟩
    · by_cases set : ∃ e, es[t.collator]? = some (Entry.set e)
      · obtain ⟨e, here⟩ := set
        rw [tallyCheck_set here]
        exact List.getElem?_modify_ne _ _ (Ne.symm apart)
      · rw [tallyCheck_none fun e here => set ⟨e, here⟩]
    · rw [tallyCheck_set here]
      obtain ⟨frame, tally, causes, bits⟩ := tallyJudged_foldl e (plies.filter (missesTally t e))
      have mem : ∀ k, k ∈ plies.filter (missesTally t e) ↔ MissesTally t e k := fun k => by
        rw [List.mem_filter, missesTally_iff]
        exact and_iff_right (mem_plies k)
      refine ⟨_, by rw [List.getElem?_modify_eq, here]; rfl, frame, fun k => (tally k).trans (by simp only [mem]),
        fun n => (causes n).trans (by simp only [mem]), fun k => (bits k).trans (by simp only [mem]), ?_⟩
      have same : missesTally t e = fun k => decide (MissesTally t e k) :=
        funext fun k => Bool.eq_iff_iff.2 ((missesTally_iff t e k).trans decide_eq_true_iff.symm)
      rw [same]

end Sys2Proof.Machine
end

section
/-! PROOFS. What passes the path unit without a field: the watch window's addresses (R52, R53), a staging write (R150,
R151), a feeder's access (R55) and a press-controller read (R174). -/

namespace Sys2Proof.Machine
open Sys2Proof.Safety

/-! ## Addresses of the watch window (R52, R53) -/

theorem windowOffset_iff (wb : Byte) (a : Addr) (off : Nat) :
    windowOffset wb a = some off ↔ off < 0x100000 ∧ a = windowBase wb + BitVec.ofNat 28 off := by
  refine ⟨fun h => ?_, fun ⟨inside, at_off⟩ => at_off ▸ windowOffset_at wb off inside⟩
  unfold windowOffset at h
  split at h
  next here =>
    injection h with h
    have window := wb.isLt
    have address := a.isLt
    refine ⟨by omega, BitVec.eq_of_toNat_eq ?_⟩
    rw [windowBase, BitVec.toNat_add, BitVec.toNat_ofNat, BitVec.toNat_ofNat]
    omega
  next => cases h

/-- An address lies at one offset of the window at most. -/
theorem offset_unique {wb : Byte} {m n : Nat} (hm : m < 0x100000) (hn : n < 0x100000)
    (h : windowBase wb + BitVec.ofNat 28 m = windowBase wb + BitVec.ofNat 28 n) : m = n := by
  have same := windowOffset_at wb m hm
  rw [h, windowOffset_at wb n hn] at same
  exact (Option.some.inj same).symm

theorem slotOf_iff (off : Nat) (k : Ply) : slotOf off = some k ↔ slotBase k ≤ off ∧ off < slotBase k + 0x28000 := by
  have slot_end : slotBase k + 0x28000 = slotEnd k := rfl
  rw [slot_end]
  refine ⟨fun h => ?_, fun inside => find?_plies (decide_eq_true inside) fun j below => ?_⟩
  · unfold slotOf at h
    have hit := List.find?_some h
    rwa [decide_eq_true_eq] at hit
  rw [decide_eq_false_iff_not]
  rintro ⟨-, h⟩
  have order : j.val < k.val := below
  simp only [slotEnd, slotBase] at h inside
  omega

theorem regionOf_none {wb : Byte} {a : Addr} (h : windowOffset wb a = none) : regionOf wb a = .outside := by
  rw [regionOf, h]

theorem regionOf_some {wb : Byte} {a : Addr} {off : Nat} (h : windowOffset wb a = some off) : regionOf wb a =
    if off < 0x8000 then .ticketArea off else if off < 0x10000 then .reportArea off
    else ((slotOf off).map fun k => Region.slot k off).getD .outside := by
  rw [regionOf, h]
  dsimp only
  cases slotOf off <;> rfl

theorem regionOf_report_iff (wb : Byte) (a : Addr) (off : Nat) : regionOf wb a = .reportArea off ↔
    0x8000 ≤ off ∧ off < 0x10000 ∧ a = windowBase wb + BitVec.ofNat 28 off := by
  constructor
  · intro h
    cases place : windowOffset wb a with
    | none => rw [regionOf_none place] at h; cases h
    | some n =>
      rw [regionOf_some place] at h
      split at h
      next => cases h
      next low =>
        split at h
        next high =>
          obtain rfl : n = off := by injection h
          exact ⟨Nat.le_of_not_lt low, high, ((windowOffset_iff ..).1 place).2⟩
        next => cases slot : slotOf n <;> rw [slot] at h <;> cases h
  · rintro ⟨low, high, rfl⟩
    rw [regionOf_some (windowOffset_at wb off (by omega)), if_neg (by omega), if_pos high]

theorem regionOf_slot_iff (wb : Byte) (a : Addr) (k : Ply) (off : Nat) : regionOf wb a = .slot k off ↔
    slotBase k ≤ off ∧ off < slotBase k + 0x28000 ∧ a = windowBase wb + BitVec.ofNat 28 off := by
  constructor
  · intro h
    cases place : windowOffset wb a with
    | none => rw [regionOf_none place] at h; cases h
    | some n =>
      rw [regionOf_some place] at h
      split at h
      next => cases h
      next =>
        split at h
        next => cases h
        next =>
          cases slot : slotOf n with
          | none => rw [slot] at h; cases h
          | some j =>
            rw [slot] at h
            injection h with same_ply same_off
            subst same_ply same_off
            obtain ⟨low, high⟩ := (slotOf_iff ..).1 slot
            exact ⟨low, high, ((windowOffset_iff ..).1 place).2⟩
  · rintro ⟨low, high, rfl⟩
    have base : 0x10000 ≤ slotBase k ∧ slotBase k + 0x28000 ≤ 0x100000 := by
      have := k.isLt
      unfold slotBase
      omega
    rw [regionOf_some (windowOffset_at wb off (by omega)), if_neg (by omega), if_neg (by omega),
      (slotOf_iff ..).2 ⟨low, high⟩]
    rfl

theorem inSlot_iff (s : State) (k : Ply) (a : Addr) : inSlot s.path.wbase k a = true ↔ InSlotOf s k a := by
  unfold inSlot
  constructor
  · intro h
    split at h
    next j off place =>
      obtain rfl : j = k := eq_of_beq h
      exact ⟨off, (regionOf_slot_iff ..).1 place⟩
    next => cases h
  · rintro ⟨off, place⟩
    rw [(regionOf_slot_iff ..).2 place]
    exact beq_self_eq_true k

theorem straysFrom_iff (s : State) (k : Ply) (a : Addr) : straysFrom s.path.wbase k a = true ↔ StraysOf s k a := by
  have window : StraysOf s k a ↔ ∃ off, windowOffset s.path.wbase a = some off ∧ slotOf off ≠ some k := by
    simp only [windowOffset_iff, ne_eq, slotOf_iff]
    exact exists_congr fun off => ⟨fun ⟨inside, out, here⟩ => ⟨⟨inside, here⟩, out⟩, fun ⟨⟨inside, here⟩, out⟩ => ⟨inside, out, here⟩⟩
  rw [window, straysFrom]
  cases place : windowOffset s.path.wbase a with
  | none => simp [regionOf_none place]
  | some off =>
    have slots : ∀ j, slotOf off = some j → 0x10000 ≤ off ∧ off < 0x100000 := fun j h => by
      obtain ⟨low, high⟩ := (slotOf_iff ..).1 h
      have := j.isLt
      unfold slotBase at low high
      omega
    have inside := ((windowOffset_iff ..).1 place).1
    have covered : slotOf off = none → off < 0x10000 := fun h => by
      by_contra high
      have ply : (off - 0x10000) / 0x28000 < 6 := by omega
      have found := (slotOf_iff off ⟨(off - 0x10000) / 0x28000, ply⟩).2 (by unfold slotBase; dsimp only; omega)
      rw [h] at found
      cases found
    rw [regionOf_some place]
    simp only [Option.some.injEq, exists_eq_left']
    cases slot : slotOf off with
    | none =>
      have low := covered slot
      by_cases ticket : off < 0x8000 <;> simp [ticket, low]
    | some j =>
      have low := (slots j slot).1
      rw [if_neg (by omega), if_neg (by omega)]
      simp

/-! ## The words of a burst -/

theorem wordAddr_injective {a : Addr} {i j : Nat} (hi : i < 0x4000000) (hj : j < 0x4000000) (h : wordAddr a i = wordAddr a j) :
    i = j := by
  have same : (BitVec.ofNat 28 (4 * i)) = BitVec.ofNat 28 (4 * j) := (BitVec.add_right_inj a).1 h
  have values := congrArg BitVec.toNat same
  rw [BitVec.toNat_ofNat, BitVec.toNat_ofNat] at values
  omega

theorem wordAddr_aligned {a : Addr} (h : a.toNat % 4 = 0) (i : Nat) : (wordAddr a i).toNat % 4 = 0 := by
  rw [wordAddr, BitVec.toNat_add, BitVec.toNat_ofNat]
  omega

/-! ## The places of the ticket area (R150) -/

/-- The offset of a word the ticket block takes. -/
def TicketPlace.offset : TicketPlace → Nat
  | .staged i => 4 * i
  | .command => 0x400
  | .arg1 => 0x404
  | .arg2 => 0x408
  | .notTaken => 0

/-- The words the ticket block takes. -/
def TicketPlace.Taken : TicketPlace → Prop
  | .staged i => i < 128
  | .notTaken => False
  | _ => True

theorem ticketPlace_iff {wb : Byte} {b : Addr} {p : TicketPlace} (aligned : b.toNat % 4 = 0) (taken : p.Taken) :
    ticketPlace wb b = p ↔ b = windowBase wb + BitVec.ofNat 28 p.offset := by
  have few : p.offset < 0x40C ∧ (p.offset < 0x200 ∨ 0x400 ≤ p.offset) := by
    cases p with
    | staged i =>
      have few : i < 128 := taken
      have place : (TicketPlace.staged i).offset = 4 * i := rfl
      omega
    | command | arg1 | arg2 => decide
    | notTaken => exact taken.elim
  have there : ticketPlace wb (windowBase wb + BitVec.ofNat 28 p.offset) = p := by
    rw [ticketPlace_of (by omega) (windowOffset_at wb _ (by omega))]
    cases p with
    | staged i =>
      have few : i < 128 := taken
      have place : (TicketPlace.staged i).offset = 4 * i := rfl
      rw [if_pos (by omega), place, Nat.mul_div_cancel_left i (by decide)]
    | command | arg1 | arg2 => rfl
    | notTaken => exact taken.elim
  refine ⟨fun h => ?_, fun h => h ▸ there⟩
  have area : ∃ off, off < 0x8000 ∧ windowOffset wb b = some off := by
    cases place : windowOffset wb b with
    | none =>
      rw [ticketPlace, regionOf_none place] at h
      subst h
      exact taken.elim
    | some off =>
      by_contra none
      have high : ¬off < 0x8000 := fun low => none ⟨off, low, rfl⟩
      rw [ticketPlace, regionOf_some place, if_neg high] at h
      by_cases report : off < 0x10000
      · rw [if_pos report] at h
        subst h
        exact taken.elim
      · rw [if_neg report] at h
        cases slot : slotOf off <;> rw [slot] at h <;> subst h <;> exact taken.elim
  obtain ⟨off, low, place⟩ := area
  obtain ⟨inside, here⟩ := (windowOffset_iff ..).1 place
  have even : off % 4 = 0 := by
    rw [here, windowBase, BitVec.toNat_add, BitVec.toNat_ofNat, BitVec.toNat_ofNat] at aligned
    have := wb.isLt
    omega
  rw [ticketPlace_of low place] at h
  rw [here]
  congr 2
  split at h
  next =>
    subst h
    have place : (TicketPlace.staged (off / 4)).offset = 4 * (off / 4) := rfl
    omega
  next =>
    split at h
    next => subst h; assumption
    next =>
      split at h
      next => subst h; assumption
      next =>
        split at h
        next => subst h; assumption
        next => subst h; exact taken.elim

/-! ## Staging (R150, R151) -/

/-- A word of the ticket block that a staged word at one place merges into, and no other staged word changes. -/
structure MergedAt (wb : Byte) (p : TicketPlace) (f : State → Word) : Prop where
  hit : ∀ a w s, s.path.wbase = wb → s.ticket.staged.length = 128 → ticketPlace wb a = p →
    f (stageWord a w s) = mergeBytes (f s) w
  miss : ∀ a w s, s.path.wbase = wb → ticketPlace wb a ≠ p → f (stageWord a w s) = f s

theorem mergedAt_staged (wb : Byte) {i : Nat} (few : i < 128) :
    MergedAt wb (.staged i) fun s => stagedWord s.ticket.staged i := by
  refine ⟨fun a w s base length place => ?_, fun a w s base place => ?_⟩
  · simp [stageWord, base, place, stagedWord, length, few]
  · rw [stageWord, base]
    split
    next j here =>
      have apart : j ≠ i := fun same => place (same ▸ here)
      simp [stagedWord, apart]
    all_goals rfl

theorem mergedAt_arg1 (wb : Byte) : MergedAt wb .arg1 fun s => s.ticket.arg1 := by
  refine ⟨fun a w s base _ place => ?_, fun a w s base place => ?_⟩
  · simp [stageWord, base, place]
  · rw [stageWord, base]
    split
    case h_2 here => exact absurd here place
    all_goals rfl

theorem mergedAt_arg2 (wb : Byte) : MergedAt wb .arg2 fun s => s.ticket.arg2 := by
  refine ⟨fun a w s base _ place => ?_, fun a w s base place => ?_⟩
  · simp [stageWord, base, place]
  · rw [stageWord, base]
    split
    case h_3 here => exact absurd here place
    all_goals rfl

section
variable {wb : Byte} {p : TicketPlace} {f : State → Word}

theorem MergedAt.stageWords_miss (m : MergedAt wb p f) (a : Addr) (ws : List WordWrite) (s : State) (base : s.path.wbase = wb)
    (none : ∀ j < ws.length, ticketPlace wb (wordAddr a j) ≠ p) : f (stageWords a ws s) = f s := by
  induction ws generalizing a s with
  | nil => rfl
  | cons w ws ih =>
    have first : f (stageWord a w s) = f s := m.miss a w s base (by simpa [wordAddr_zero] using none 0 (by simp))
    refine (ih (a + 4) (stageWord a w s) ((stageWord_keeps ..).wbase.trans base) fun j hj => ?_).trans first
    rw [show a + 4 = a + 4#28 from rfl, wordAddr_succ]
    exact none (j + 1) (by simpa using hj)

theorem MergedAt.stageWords_hit (m : MergedAt wb p f) (a : Addr) (ws : List WordWrite) (s : State) (base : s.path.wbase = wb)
    (length : s.ticket.staged.length = 128) {j : Nat} (hj : j < ws.length)
    (only : ∀ i < ws.length, ticketPlace wb (wordAddr a i) = p ↔ i = j) :
    f (stageWords a ws s) = mergeBytes (f s) ws[j] := by
  induction ws generalizing a s j with
  | nil => simp at hj
  | cons w ws ih =>
    have base' := (stageWord_keeps a w s).wbase.trans base
    have rest : ∀ i < ws.length, ticketPlace wb (wordAddr (a + 4) i) = p ↔ i + 1 = j := fun i hi => by
      rw [show a + 4 = a + 4#28 from rfl, wordAddr_succ]
      exact only (i + 1) (by simpa using hi)
    have here : ticketPlace wb a = p ↔ 0 = j := by simpa [wordAddr_zero] using only 0 (by simp)
    cases j with
    | zero =>
      refine (m.stageWords_miss (a + 4) ws _ base' fun i hi => ?_).trans (m.hit a w s base length (here.2 rfl))
      exact fun place => Nat.succ_ne_zero i ((rest i hi).1 place)
    | succ j =>
      have first : f (stageWord a w s) = f s := m.miss a w s base fun place => by simpa using here.1 place
      have tail := ih (a + 4) (stageWord a w s) base' ((stageWord_keeps ..).staged.trans length) (j := j) (by simpa using hj)
        fun i hi => (rest i hi).trans (by simp)
      rw [first] at tail
      exact tail

end

theorem stageWord_frame (a : Addr) (w : WordWrite) (s : State) : ∃ st a1 a2, stageWord a w s =
    { s with ticket := { s.ticket with staged := st, arg1 := a1, arg2 := a2 } } := by
  unfold stageWord
  split
  · exact ⟨_, s.ticket.arg1, s.ticket.arg2, rfl⟩
  · exact ⟨s.ticket.staged, _, s.ticket.arg2, rfl⟩
  · exact ⟨s.ticket.staged, s.ticket.arg1, _, rfl⟩
  · exact ⟨s.ticket.staged, s.ticket.arg1, s.ticket.arg2, rfl⟩
  · exact ⟨s.ticket.staged, s.ticket.arg1, s.ticket.arg2, rfl⟩

theorem stageWords_frame (a : Addr) (ws : List WordWrite) (s : State) : ∃ st a1 a2, stageWords a ws s =
    { s with ticket := { s.ticket with staged := st, arg1 := a1, arg2 := a2 } } := by
  induction ws generalizing a s with
  | nil => exact ⟨s.ticket.staged, s.ticket.arg1, s.ticket.arg2, rfl⟩
  | cons w ws ih =>
    obtain ⟨st, a1, a2, first⟩ := stageWord_frame a w s
    obtain ⟨st', a1', a2', rest⟩ := ih (a + 4) (stageWord a w s)
    refine ⟨st', a1', a2', rest.trans ?_⟩
    rw [first]

theorem commandWord_none {wb : Byte} {a : Addr} {ws : List WordWrite}
    (missing : ∀ j < ws.length, ticketPlace wb (wordAddr a j) ≠ .command) : commandWord wb a ws = none := by
  induction ws generalizing a with
  | nil => rfl
  | cons w ws ih =>
    rw [commandWord, if_neg (by simpa [wordAddr_zero] using missing 0 (by simp))]
    refine ih fun j hj => ?_
    rw [show a + 4 = a + 4#28 from rfl, wordAddr_succ]
    exact missing (j + 1) (by simpa using hj)

theorem commandWord_at {wb : Byte} {a : Addr} {ws : List WordWrite} {j : Nat} (hj : j < ws.length)
    (only : ∀ i < ws.length, ticketPlace wb (wordAddr a i) = .command ↔ i = j) : commandWord wb a ws = some ws[j] := by
  induction ws generalizing a j with
  | nil => simp at hj
  | cons w ws ih =>
    have here : ticketPlace wb a = .command ↔ 0 = j := by simpa [wordAddr_zero] using only 0 (by simp)
    cases j with
    | zero =>
      rw [commandWord, if_pos (here.2 rfl)]
      rfl
    | succ j =>
      rw [commandWord, if_neg fun place => by simpa using here.1 place]
      refine ih (a := a + 4) (j := j) (by simpa using hj) fun i hi => ?_
      rw [show a + 4 = a + 4#28 from rfl, wordAddr_succ]
      exact (only (i + 1) (by simpa using hi)).trans (by simp)

section
variable {wb : Byte} {a : Addr} {n : Nat}

theorem place_only (aligned : a.toNat % 4 = 0) (short : n ≤ 16) (p : TicketPlace) (taken : p.Taken) {j : Nat} (hj : j < n)
    (here : wordAddr a j = windowBase wb + BitVec.ofNat 28 p.offset) :
    ∀ i < n, ticketPlace wb (wordAddr a i) = p ↔ i = j := fun i hi =>
  (ticketPlace_iff (wordAddr_aligned aligned i) taken).trans
    ⟨fun there => wordAddr_injective (a := a) (by omega) (by omega) (there.trans here.symm), fun same => same ▸ here⟩

theorem place_missed (aligned : a.toNat % 4 = 0) (p : TicketPlace) (taken : p.Taken)
    (none : ∀ j < n, wordAddr a j ≠ windowBase wb + BitVec.ofNat 28 p.offset) :
    ∀ j < n, ticketPlace wb (wordAddr a j) ≠ p := fun j hj there =>
  none j hj ((ticketPlace_iff (wordAddr_aligned aligned j) taken).1 there)

end

/-- Settles O14: each place takes the one word of the burst that lies at it. -/
theorem stagingWriteMergesWords : Obligations.StagingWriteMergesWords := by
  refine ⟨fun a ws s held => congrArg Host.Outcome.next (writeAccess_resetting a ws held), fun a ws s wf works length => ?_⟩
  simp only [Instr.wf, Bool.and_eq_true, wordAligned, beq_iff_eq, burstOk, decide_eq_true_eq] at wf
  obtain ⟨aligned, -, short⟩ := wf
  have arrives := writeAccess_staged a ws works rfl
  obtain ⟨st, a1, a2, frame⟩ := stageWords_frame a ws
    { s with bus := { upstream := [], downstream := [(0, { addr := a, body := .write ws })] } }
  refine ⟨stageWords a ws { s with bus := { upstream := [], downstream := [(0, { addr := a, body := .write ws })] } },
    by rw [frame], by rw [frame], (stageWords_keeps ..).staged.trans length,
    fun i few j hj here => (mergedAt_staged _ few).stageWords_hit a ws (passDown controllerId { addr := a, body := .write ws } (begin s))
      rfl length hj
      (place_only aligned short (.staged i) few hj here),
    fun i few missing => (mergedAt_staged _ few).stageWords_miss a ws _ rfl (place_missed aligned (.staged i) few missing),
    fun j hj here => (mergedAt_arg1 _).stageWords_hit a ws (passDown controllerId { addr := a, body := .write ws } (begin s))
      rfl length hj (place_only aligned short .arg1 trivial hj here),
    fun missing => (mergedAt_arg1 _).stageWords_miss a ws _ rfl (place_missed aligned .arg1 trivial missing),
    fun j hj here => (mergedAt_arg2 _).stageWords_hit a ws (passDown controllerId { addr := a, body := .write ws } (begin s))
      rfl length hj (place_only aligned short .arg2 trivial hj here),
    fun missing => (mergedAt_arg2 _).stageWords_miss a ws _ rfl (place_missed aligned .arg2 trivial missing),
    fun missing => congrArg Host.Outcome.next (arrives.trans ?_), fun j hj here => ?_⟩
  · rw [commandWord_none (place_missed aligned .command trivial missing)]
  have taken : writeAccess a ws (begin s) = writeCommandWord ws[j] (stageWords a ws
      { s with bus := { upstream := [], downstream := [(0, { addr := a, body := .write ws })] } }) := by
    rw [arrives, commandWord_at hj (place_only aligned short .command trivial hj here)]
  have code : ws[j].data.setWidth 8 = ws[j].data.extractLsb' 0 8 := by
    ext i hi
    simp
  refine ⟨fun few => congrArg Host.Outcome.next (taken.trans ?_),
    fun full p waiting => congrArg Host.Outcome.next (taken.trans ?_),
    fun full free => congrArg Host.Outcome.next (taken.trans ?_)⟩
  · rw [writeCommandWord, if_neg few, frame]
    rfl
  · rw [writeCommandWord, if_pos full, code]
    exact takeCommand_busy _ _ _ (by rw [frame]; exact waiting)
  · rw [writeCommandWord, if_pos full, code]
    exact takeCommand_free _ _ _ (by rw [frame]; exact free)

/-! ## A head feeder's access (R48, R55) -/

@[simp] theorem feeder_setFeeder_same (k : Ply) (f : Feeder) (s : State) : feeder (setFeeder k f s) k = f :=
  Six.get_set_same ..

theorem feeder_setFeeder_other {j k : Ply} (f : Feeder) (s : State) (h : j ≠ k) :
    feeder (setFeeder k f s) j = feeder s j := Six.get_set_other _ _ (Ne.symm h)

/-- The counts of feeder k after an access that is counted. -/
theorem countAccess_feeder (k : Ply) (a : Access) (s : State) : feeder (countAccess k a s) k = { feeder s k with
    slotReads := match a.body with
      | .read _ => if (Access.addrs a).any (inSlot s.path.wbase k) then (feeder s k).slotReads + 1 else (feeder s k).slotReads
      | .write _ => (feeder s k).slotReads
    strays := if (Access.addrs a).any (straysFrom s.path.wbase k) then (feeder s k).strays + 1 else (feeder s k).strays } := by
  unfold countAccess
  rw [feeder_setFeeder_same] <;> rfl

theorem any_iff {α : Type} {l : List α} {f : α → Bool} {P : α → Prop} (h : ∀ b, f b = true ↔ P b) :
    l.any f = true ↔ ∃ b ∈ l, P b := by
  simp only [List.any_eq_true, h]

/-- Settles O30: the access passes, and its counts follow its addresses. -/
theorem feederAccessCounted : Obligations.FeederAccessCounted := by
  intro k a s
  by_cases works : s.resetting = true
  · refine ⟨_, congrArg Host.Outcome.next (if_pos works), rfl, fun _ => rfl, fun off => ?_⟩
    exact absurd (off.symm.trans works) (by simp)
  have counts := countAccess_feeder k a (passDown (feederId k) a (begin s))
  have same : feeder (passDown (feederId k) a (begin s)) k = feeder s k := rfl
  have base : (passDown (feederId k) a (begin s)).path.wbase = s.path.wbase := rfl
  rw [same, base] at counts
  have reads := any_iff (l := Access.addrs a) (inSlot_iff s k)
  have strays := any_iff (l := Access.addrs a) (straysFrom_iff s k)
  refine ⟨_, congrArg Host.Outcome.next (if_neg works), rfl, fun held => absurd held works, fun _ =>
    ⟨rfl, fun j other => feeder_setFeeder_other _ _ other, by rw [counts], fun n read hit => ?_, fun none => ?_, fun hit => ?_,
      fun none => ?_⟩⟩
  · obtain ⟨i, hi, here⟩ := hit
    have any : (Access.addrs a).any (inSlot s.path.wbase k) = true := reads.2
      ⟨wordAddr a.addr i, List.mem_map_of_mem (List.mem_range.2 (by rw [Access.count, read]; exact hi)), here⟩
    rw [counts]
    dsimp only
    rw [read]
    exact if_pos any
  · rw [counts]
    dsimp only
    cases body : a.body with
    | write ws => rfl
    | read n =>
      refine if_neg fun any => ?_
      obtain ⟨b, mem, here⟩ := reads.1 any
      obtain ⟨i, hi, rfl⟩ := List.mem_map.1 mem
      exact none n body i (by simpa [Access.count, body] using hi) here
  · rw [counts]
    exact if_pos (strays.2 hit)
  · rw [counts]
    refine if_neg fun any => ?_
    obtain ⟨b, mem, here⟩ := strays.1 any
    exact none b mem here

end Sys2Proof.Machine
end

section
/-! PROOFS. A press-controller read and the bind wait: the report area laid into a response and the POP (R174, R176), the
hold of a response (R67) and the expiry of its timer (R69). -/

namespace Sys2Proof.Machine
open Sys2Proof.Safety

/-! ## A press-controller read (R50, R174, R176) -/

/-- The POP word's address. -/
abbrev PopAt (s : State) (a : Addr) : Prop := a = windowBase s.path.wbase + 0x81E0

/-- The state with the POP done where it is asked for. -/
def poppedIf (p : Prop) [Decidable p] (s : State) : State := if p then popRecord s else s

theorem poppedIf_wbase (p : Prop) [Decidable p] (s : State) : (poppedIf p s).path.wbase = s.path.wbase := by
  unfold poppedIf
  split <;> rfl

theorem overlayWord_state (a : Addr) (w : Word) (s : State) : (overlayWord a w s).2 = poppedIf (PopAt s a) s := by
  unfold overlayWord poppedIf
  cases place : regionOf s.path.wbase a with
  | reportArea off =>
    obtain ⟨low, high, here⟩ := (regionOf_report_iff ..).1 place
    have same : off = popOffset ↔ PopAt s a := by
      constructor
      · rintro rfl
        exact here
      · exact fun pop => offset_unique (by omega) (by decide) (here.symm.trans pop)
    exact if_congr same rfl rfl
  | ticketArea _ | slot _ _ | outside =>
    rw [if_neg]
    intro pop
    have there := (regionOf_report_iff s.path.wbase a 0x81E0).2 ⟨by decide, by decide, pop⟩
    rw [place] at there
    cases there

theorem overlayWord_report {a : Addr} {off : Nat} (w : Word) (s : State) (low : 0x8000 ≤ off) (high : off < 0x10000)
    (here : a = windowBase s.path.wbase + BitVec.ofNat 28 off) : (overlayWord a w s).1 = reportWord s off := by
  rw [overlayWord, (regionOf_report_iff ..).2 ⟨low, high, here⟩]

theorem overlayWord_memory {a : Addr} (w : Word) (s : State)
    (out : ∀ off, 0x8000 ≤ off → off < 0x10000 → a ≠ windowBase s.path.wbase + BitVec.ofNat 28 off) :
    (overlayWord a w s).1 = w := by
  unfold overlayWord
  split
  next off place =>
    obtain ⟨low, high, here⟩ := (regionOf_report_iff ..).1 place
    exact absurd here (out off low high)
  all_goals rfl

/-- The words of a read response: each sees the POP of those before it. -/
theorem overlayWords_spec (a : Addr) (ws : List Word) (s : State)
    (once : ∀ i < ws.length, ∀ j < ws.length, PopAt s (wordAddr a i) → PopAt s (wordAddr a j) → i = j) :
    (overlayWords a ws s).2 = poppedIf (∃ i < ws.length, PopAt s (wordAddr a i)) s ∧
    ∀ j, (overlayWords a ws s).1[j]? =
      ws[j]?.map fun w => (overlayWord (wordAddr a j) w (poppedIf (∃ i < j, PopAt s (wordAddr a i)) s)).1 := by
  induction ws generalizing a s with
  | nil => exact ⟨by simp [overlayWords, poppedIf], by simp [overlayWords]⟩
  | cons w ws ih =>
    have next : ∀ i, wordAddr (a + 4) i = wordAddr a (i + 1) := wordAddr_succ a
    have first : wordAddr a 0 = a := wordAddr_zero a
    have base : ∀ b, PopAt (overlayWord a w s).2 b ↔ PopAt s b := fun b => by
      rw [PopAt, overlayWord_state, poppedIf_wbase]
    obtain ⟨state, words⟩ := ih (a + 4) (overlayWord a w s).2 fun i hi j hj pi pj => by
      rw [base, next] at pi pj
      simpa using once (i + 1) (by simpa using hi) (j + 1) (by simpa using hj) pi pj
    simp only [base, next] at state words
    have gathers : ∀ n ≤ ws.length, poppedIf (∃ i < n, PopAt s (wordAddr a (i + 1))) (overlayWord a w s).2 =
        poppedIf (∃ i < n + 1, PopAt s (wordAddr a i)) s := fun n few => by
      rw [overlayWord_state]
      by_cases here : PopAt s a
      · have later : ¬∃ i < n, PopAt s (wordAddr a (i + 1)) := fun ⟨i, hi, pop⟩ =>
          absurd (once 0 (by simp) (i + 1) (by simp; omega) (first.symm ▸ here) pop) (by simp)
        have any : ∃ i < n + 1, PopAt s (wordAddr a i) := ⟨0, by omega, first.symm ▸ here⟩
        simp only [poppedIf, if_pos here, if_neg later, if_pos any]
      · have same : (∃ i < n, PopAt s (wordAddr a (i + 1))) ↔ ∃ i < n + 1, PopAt s (wordAddr a i) :=
          ⟨fun ⟨i, hi, pop⟩ => ⟨i + 1, by omega, pop⟩, fun ⟨i, hi, pop⟩ => by
            cases i with
            | zero => exact absurd (first ▸ pop) here
            | succ i => exact ⟨i, by omega, pop⟩⟩
        simp only [poppedIf, if_neg here]
        exact if_congr same rfl rfl
    refine ⟨state.trans (gathers _ le_rfl), fun j => ?_⟩
    cases j with
    | zero =>
      have none : ¬∃ i < 0, PopAt s (wordAddr a i) := by simp
      simp only [overlayWords, List.getElem?_cons_zero, Option.map_some, first, poppedIf, if_neg none]
    | succ j =>
      rw [overlayWords, List.getElem?_cons_succ, List.getElem?_cons_succ, words j]
      cases found : ws[j]? with
      | none => rfl
      | some v =>
        have inside : j < ws.length := (List.getElem?_eq_some_iff.1 found).1
        rw [Option.map_some, Option.map_some, gathers j inside.le]

theorem popped_eq (r : Response) (s : State) :
    popped r s = poppedIf (∃ i < r.words.length, PopAt s (wordAddr r.addr i)) s := by
  have same : ((List.range r.words.length).any fun j => wordAddr r.addr j == windowBase s.path.wbase + 0x81E0) = true ↔
      ∃ i < r.words.length, PopAt s (wordAddr r.addr i) := by
    simp only [List.any_eq_true, List.mem_range, beq_iff_eq]
  exact if_congr same rfl rfl

theorem poppedIf_begin (p : Prop) [Decidable p] (s : State) : poppedIf p (begin s) = begin (poppedIf p s) := by
  by_cases h : p
  · rw [poppedIf, poppedIf, if_pos h, if_pos h]
    rfl
  · rw [poppedIf, poppedIf, if_neg h, if_neg h]

/-- The POP word's place and that of a word of the same burst. -/
theorem pop_distance {wb : Byte} {a : Addr} {i j off : Nat} (hi : i < 16) (hj : j < 16) (high : off < 0x10000)
    (pop : wordAddr a i = windowBase wb + 0x81E0) (here : wordAddr a j = windowBase wb + BitVec.ofNat 28 off) :
    4 * j + 0x81E0 = 4 * i + off := by
  have pop := congrArg BitVec.toNat pop
  have here := congrArg BitVec.toNat here
  rw [wordAddr, BitVec.toNat_add, BitVec.toNat_add, BitVec.toNat_ofNat] at pop here
  rw [BitVec.toNat_ofNat] at here
  rw [show (0x81E0 : Addr).toNat = 0x81E0 from rfl] at pop
  omega

/-- Settles O28: the POP word is one of the burst at most; the words up to it see the state before the POP. -/
theorem controllerReadOverlaid : Obligations.ControllerReadOverlaid := by
  intro r s wf
  refine ⟨fun held => congrArg Host.Outcome.next (if_pos held), fun works => ?_⟩
  simp only [Instr.wf, Bool.and_eq_true, burstOk, decide_eq_true_eq] at wf
  obtain ⟨-, -, short⟩ := wf
  have once : ∀ i < r.words.length, ∀ j < r.words.length, PopAt (begin s) (wordAddr r.addr i) →
      PopAt (begin s) (wordAddr r.addr j) → i = j := fun i hi j hj pi pj =>
    wordAddr_injective (a := r.addr) (by omega) (by omega) (pi.trans pj.symm)
  obtain ⟨state, words⟩ := overlayWords_spec r.addr r.words (begin s) once
  have popped_begin : (overlayWords r.addr r.words (begin s)).2 = begin (popped r s) := by
    rw [state, popped_eq, ← poppedIf_begin]
    rfl
  have length : (overlayWords r.addr r.words (begin s)).1.length = r.words.length := by
    refine Nat.le_antisymm (List.getElem?_eq_none_iff.1 ?_) (List.getElem?_eq_none_iff.1 ?_)
    · rw [words, List.getElem?_eq_none le_rfl]; rfl
    · have at_end := words (overlayWords r.addr r.words (begin s)).1.length
      rw [List.getElem?_eq_none le_rfl] at at_end
      exact Option.map_eq_none_iff.1 at_end.symm
  refine ⟨(overlayWords r.addr r.words (begin s)).1, length, ?_, fun j hj => ?_⟩
  · refine congrArg Host.Outcome.next ((if_neg (by rw [show (begin s).resetting = s.resetting from rfl, works]; simp)).trans ?_)
    dsimp only
    rw [popped_begin]
    rfl
  · have word : (overlayWords r.addr r.words (begin s)).1[j] = (overlayWord (wordAddr r.addr j) r.words[j]
        (poppedIf (∃ i < j, PopAt (begin s) (wordAddr r.addr i)) (begin s))).1 := by
      have found := words j
      rw [List.getElem?_eq_getElem (length.symm ▸ hj), List.getElem?_eq_getElem hj] at found
      exact Option.some.inj found
    have base := poppedIf_wbase (∃ i < j, PopAt (begin s) (wordAddr r.addr i)) (begin s)
    refine ⟨fun off low high here => ?_, fun out => ?_⟩
    · rw [word, overlayWord_report _ _ low high (by rw [base]; exact here)]
      refine ⟨fun upto => ?_, fun after => ?_⟩
      · have none : ¬∃ i < j, PopAt (begin s) (wordAddr r.addr i) := fun ⟨i, before, pop⟩ => by
          have := pop_distance (by omega) (by omega) high pop here
          omega
        rw [poppedIf, if_neg none]
        rfl
      · have same : (∃ i < j, PopAt (begin s) (wordAddr r.addr i)) ↔ ∃ i < r.words.length, PopAt s (wordAddr r.addr i) :=
          ⟨fun ⟨i, before, pop⟩ => ⟨i, by omega, pop⟩, fun ⟨i, hi, pop⟩ => by
            have := pop_distance (by omega) (by omega) high pop here
            exact ⟨i, by omega, pop⟩⟩
        rw [popped_eq]
        unfold poppedIf
        rw [if_congr same rfl rfl]
        split <;> rfl
    · rw [word, overlayWord_memory _ _ fun off low high => by rw [base]; exact out off low high]

/-! ## The bind wait (R67, R69) -/

theorem headPosOf_some_iff (s : State) (k : Ply) (p : Nat) : headPosOf s k = some p ↔
    ∃ t, s.ticket.active = some t ∧ (t.plies.get k).enabled = true ∧ t.headPos k = p := by
  unfold headPosOf
  cases s.ticket.active with
  | none => simp
  | some t => simp

theorem entryAt_pending_iff (s : State) (p : Nat) :
    (entryAt s p).isPending = true ↔ ∃ st cs ps, s.pipe.entries[p]? = some (.pending st cs ps) := by
  unfold entryAt
  rw [List.getD_eq_getElem?_getD]
  cases s.pipe.entries[p]? with
  | none => simp [Entry.isPending]
  | some x => cases x <;> simp [Entry.isPending]

theorem continued_le_iff (c : Option Continuation) (a : Addr) (i : Nat) :
    continued c a ≤ i ↔ ∀ x, c = some x → x.next = a → x.glyphs.length ≤ i := by
  cases c with
  | none => simp [continued]
  | some x => by_cases here : x.next = a <;> simp [continued, here]

theorem isMarked_iff (w : Word) : isMarked w = true ↔ w.extractLsb' 24 8 = 0xA7 := by
  rw [isMarked, beq_iff_eq, field, ← BitVec.toNat_inj, BitVec.extractLsb'_toNat, Nat.shiftRight_eq_div_pow]
  rfl

theorem holdsToken_iff (s : State) (k : Ply) (r : Response) : holdsToken s k r = true ↔
    ∃ i w, r.words[i]? = some w ∧ w.extractLsb' 24 8 = 0xA7 ∧ InSlotOf s k (wordAddr r.addr i) ∧
      ∀ c, (feeder s k).cont = some c → c.next = r.addr → c.glyphs.length ≤ i := by
  unfold holdsToken
  simp only [List.any_eq_true, List.mem_range, Bool.and_eq_true, decide_eq_true_eq, continued_le_iff, isMarked_iff, inSlot_iff]
  constructor
  · rintro ⟨i, inside, ⟨free, marked⟩, slot⟩
    rw [List.getD_eq_getElem _ _ inside] at marked
    exact ⟨i, _, List.getElem?_eq_getElem inside, marked, slot, free⟩
  · rintro ⟨i, w, here, marked, slot, free⟩
    obtain ⟨inside, rfl⟩ := List.getElem?_eq_some_iff.1 here
    exact ⟨i, inside, ⟨free, by rw [List.getD_eq_getElem _ _ inside]; exact marked⟩, slot⟩

/-- Settles O32: the three conditions of a hold. -/
theorem tokenMeetsPendingEntry : Obligations.TokenMeetsPendingEntry := by
  intro k r s
  have head : (match headPosOf s k with | some p => (entryAt s p).isPending | none => false) = true ↔
      ∃ t st cs ps, s.ticket.active = some t ∧ (t.plies.get k).enabled = true ∧
        s.pipe.entries[t.headPos k]? = some (.pending st cs ps) := by
    constructor
    · intro h
      cases place : headPosOf s k with
      | none => rw [place] at h; cases h
      | some p =>
        rw [place] at h
        obtain ⟨t, active, enabled, rfl⟩ := (headPosOf_some_iff ..).1 place
        obtain ⟨st, cs, ps, pending⟩ := (entryAt_pending_iff ..).1 h
        exact ⟨t, st, cs, ps, active, enabled, pending⟩
    · rintro ⟨t, st, cs, ps, active, enabled, pending⟩
      rw [(headPosOf_some_iff ..).2 ⟨t, active, enabled, rfl⟩]
      exact (entryAt_pending_iff ..).2 ⟨st, cs, ps, pending⟩
  rw [mustHold, Bool.and_eq_true, Bool.and_eq_true, holdsToken_iff, and_assoc]
  exact and_congr_right' (and_congr_left' head)

theorem exec_bindWaitExpiry (k : Ply) (s : State) : exec (.bindWaitExpiry k) s = .next
    (if s.resetting = false ∧ (feeder s k).held = true ∧ (feeder s k).timer ≠ none ∧ pendingAtZero s = true then
      settle (raise .bindTimeout (plyNumber k) 0 { quiet s with pipe := blanked s.pipe }) else quiet s) := by
  have runs : waitRuns (begin s) k = true ↔
      s.resetting = false ∧ (feeder s k).held = true ∧ (feeder s k).timer ≠ none ∧ pendingAtZero s = true := by
    rw [show waitRuns (begin s) k = waitRuns s k from rfl, waitRuns, ← Option.isSome_iff_ne_none]
    cases s.resetting <;> simp [and_assoc]
  have expires : bindExpire k (begin s) = raise .bindTimeout (plyNumber k) 0 { quiet s with pipe := blanked s.pipe } := by
    rw [bindExpire, blankPending_eq]
    rfl
  refine congrArg Host.Outcome.next ?_
  dsimp only
  rw [expires]
  exact if_congr runs rfl rfl

/-- Settles O33, by whether the wait runs. -/
theorem bindWaitExpires : Obligations.BindWaitExpires := by
  intro k s
  rw [exec_bindWaitExpiry]
  refine ⟨fun works held timer pending => by rw [if_pos ⟨works, held, timer, pending⟩], fun h => ?_⟩
  rw [if_neg]
  rintro ⟨works, held, timer, pending⟩
  rcases h with h | h | h | h
  · simp [works] at h
  · simp [held] at h
  · exact timer h
  · simp [pending] at h

end Sys2Proof.Machine
end

section
/-! PROOFS. The report area: where each view's words lie, and how a word is made of its fields (R173, R176, R177, R197). -/

namespace Sys2Proof.Machine
open Sys2Proof.Safety

/-! ## A word made of fields -/

/-- A word that spells its fields, all of them below a bit. -/
def Packed (w : Word) (fields : List (Nat × Nat)) (top : Nat) : Prop := Spells w fields ∧ w.toNat < 2 ^ top

theorem packed_zero : Packed 0 [] 0 := ⟨rfl, by decide⟩

theorem Packed.put {w : Word} {fields : List (Nat × Nat)} {top x lo n : Nat} (h : Packed w fields top) (above : top ≤ lo)
    (small : x < 2 ^ n) (room : lo + n ≤ 32) : Packed (w ||| put x lo) (fields ++ [(x, lo)]) (lo + n) := by
  obtain ⟨spells, bound⟩ := h
  have shifted : x * 2 ^ lo < 2 ^ (lo + n) := by
    rw [pow_add, mul_comm]
    exact Nat.mul_lt_mul_of_pos_left small (Nat.two_pow_pos lo)
  have fits : x * 2 ^ lo < 2 ^ 32 := shifted.trans_le (Nat.pow_le_pow_right (by decide) room)
  have low : w.toNat < 2 ^ lo := bound.trans_le (Nat.pow_le_pow_right (by decide) above)
  have sum : (w ||| Machine.put x lo).toNat = w.toNat + x * 2 ^ lo := by
    rw [BitVec.toNat_or, Machine.put, BitVec.toNat_ofNat, Nat.mod_eq_of_lt fits, Nat.or_comm, mul_comm,
      ← Nat.two_pow_add_eq_or_of_lt low, Nat.add_comm]
  refine ⟨?_, ?_⟩
  · rw [Spells, sum, spells]
    simp
  · rw [sum, pow_add]
    have := Nat.mul_le_mul_left (2 ^ lo) (Nat.succ_le_of_lt small)
    rw [Nat.mul_succ, mul_comm] at this
    omega

theorem packed_put {x n : Nat} (small : x < 2 ^ n) (room : n ≤ 32) : Packed (put x 0) [(x, 0)] n := by
  have first := packed_zero.put (lo := 0) le_rfl small (by omega)
  have zero : (0 : Word) ||| put x 0 = put x 0 := BitVec.zero_or
  rwa [zero, Nat.zero_add] at first

theorem putFlag_eq (b : Bool) (n : Nat) : putFlag b n = put b.toNat n := by
  cases b with
  | false => simp [putFlag, put]
  | true => rfl

theorem Packed.flag {w : Word} {fields : List (Nat × Nat)} {top lo : Nat} (h : Packed w fields top) (b : Bool)
    (above : top ≤ lo) (room : lo + 1 ≤ 32) : Packed (w ||| putFlag b lo) (fields ++ [(b.toNat, lo)]) (lo + 1) :=
  putFlag_eq b lo ▸ h.put above b.toNat_lt room

theorem packed_flag (b : Bool) : Packed (putFlag b 0) [(b.toNat, 0)] 1 :=
  putFlag_eq b 0 ▸ packed_put b.toNat_lt (by decide)

theorem JobState.code_lt (j : JobState) : j.code < 2 ^ 3 := by cases j <;> decide

theorem Policy.code_lt (p : Policy) : p.code < 2 ^ 2 := by cases p <;> decide

theorem ResultCode.code_lt (r : ResultCode) : r.code < 2 ^ 5 := by cases r <;> decide

theorem StreamStatus.code_lt (x : StreamStatus) : x.code < 2 ^ 2 := by cases x <;> decide

theorem ImageState.code_lt (x : ImageState) : x.code < 2 ^ 2 := by cases x <;> decide

theorem SectorState.code_lt (x : SectorState) : x.code < 2 ^ 3 := by cases x <;> decide

theorem kindCode_lt (k : Option FaultKind) : kindCode k < 2 ^ 5 := by
  cases k with
  | none => decide
  | some k => cases k <;> decide

/-- A bit of flags gathered one by one. -/
theorem gathered_getLsbD (f : Fin 18 → Bool) (ns : List (Fin 18)) (w : Word) (m : Nat) :
    (ns.foldl (fun w n => w ||| putFlag (f n) n.val) w).getLsbD m =
      (w.getLsbD m || ns.any fun n => n.val == m && f n) := by
  have bit : ∀ n : Fin 18, (putFlag (f n) n.val).getLsbD m = (n.val == m && f n) := fun n => by
    have one : put 1 n.val = BitVec.twoPow 32 n.val := BitVec.eq_of_toNat_eq (by simp [put, BitVec.toNat_twoPow])
    cases h : f n with
    | false => simp [putFlag]
    | true =>
      rw [putFlag, if_pos rfl, one, BitVec.getLsbD_twoPow]
      have low : n.val < 32 := by omega
      simp [low, eq_comm, beq_eq_decide]
  induction ns generalizing w with
  | nil => simp
  | cons n ns ih => rw [List.foldl_cons, ih, BitVec.getLsbD_or, bit, List.any_cons, Bool.or_assoc]

theorem gathered_iff (f : Fin 18 → Bool) (ns : List (Fin 18)) (m : Nat) :
    (ns.foldl (fun w n => w ||| putFlag (f n) n.val) (0 : Word)).getLsbD m = true ↔ ∃ n ∈ ns, n.val = m ∧ f n = true := by
  have zero : (0 : Word).getLsbD m = false := BitVec.getLsbD_zero
  rw [gathered_getLsbD, zero, Bool.false_or]
  simp only [List.any_eq_true, Bool.and_eq_true, beq_iff_eq]

/-! ## Where a word of a view lies (section 11.4.1) -/

theorem flatten_getElem? {α : Type} {n i : Nat} (hi : i < n) (L : List (List α)) (uniform : ∀ l ∈ L, l.length = n) (j : Nat) :
    L.flatten[n * j + i]? = L[j]?.bind (·[i]?) := by
  induction L generalizing j with
  | nil => simp
  | cons l L ih =>
    have length : l.length = n := uniform l (by simp)
    cases j with
    | zero => simp [List.getElem?_append_left (length.symm ▸ hi : i < l.length)]
    | succ j =>
      have past : l.length ≤ n * (j + 1) + i := by rw [length, Nat.mul_succ]; omega
      have rest : n * (j + 1) + i - l.length = n * j + i := by rw [length, Nat.mul_succ]; omega
      rw [List.flatten_cons, List.getElem?_append_right past, rest, ih fun x hx => uniform x (by simp [hx])]
      rfl

theorem dispositionWords_length (s : State) : (dispositionWords s).length = 8 := by
  unfold dispositionWords
  split
  next r rest _ => cases r <;> rfl
  next => rfl

theorem historyView_length (e : Option HistoryEntry) : (historyView e).length = 4 := by cases e <;> rfl

theorem historyWords_length {s : State} (slots : s.report.slots.length = 16) : (historyWords s).length = 64 := by
  have uniform : ∀ l ∈ s.report.slots.map historyView, l.length = 4 := by
    simp only [List.mem_map]
    rintro l ⟨e, -, rfl⟩
    exact historyView_length e
  rw [historyWords, List.length_flatten, List.map_map]
  have four : List.length ∘ historyView = fun _ => 4 := funext historyView_length
  rw [four, List.map_const', List.sum_replicate, slots]
  rfl

/-- The views have the offsets and sizes of the map. -/
theorem views_map {s : State} (slots : s.report.slots.length = 16) :
    (views s).map (fun v => (v.1, v.2.length)) = viewMap := by
  have disposition := dispositionWords_length s
  have history := historyWords_length slots
  simp only [views, List.map_cons, List.map_nil, disposition, history]
  rfl

theorem viewMap_ascends : viewMap.Pairwise fun v w => v.1 + 4 * v.2 ≤ w.1 := by decide

theorem views_ascend {s : State} (slots : s.report.slots.length = 16) :
    (views s).Pairwise fun v w => v.1 + 4 * v.2.length ≤ w.1 := by
  have ascends := viewMap_ascends
  rwa [← views_map slots, List.pairwise_map] at ascends

/-- Word i of a view, at its offset. -/
theorem view_word {s : State} (fits : Fits s) {n base i off : Nat} {ws : List Word} {x : Word}
    (view : (views s)[n]? = some (base, ws)) (word : ws[i]? = some x) (here : off = base + 4 * i) : reportWord s off = x := by
  have inside : i < ws.length := (List.getElem?_eq_some_iff.1 word).1
  have found : (views s).findSome? (fun v => if v.1 ≤ off then v.2[(off - v.1) / 4]? else none) = some x := by
    refine findSome?_eq_first (views_ascend fits.slots) (List.mem_of_getElem? view) ?_ fun v _ before => ?_
    · have place : (off - base) / 4 = i := by omega
      dsimp only
      rw [if_pos (by omega), place, word]
    · dsimp only at before ⊢
      split
      · exact List.getElem?_eq_none (by omega)
      · rfl
  rw [reportWord, found]
  rfl

/-- An offset in no view reads 0. -/
theorem reportWord_outside {s : State} (fits : Fits s) {off : Nat}
    (outside : ∀ v ∈ viewMap, ¬(v.1 ≤ off ∧ off < v.1 + 4 * v.2)) : reportWord s off = 0 := by
  have none : (views s).findSome? (fun v => if v.1 ≤ off then v.2[(off - v.1) / 4]? else none) = none := by
    rw [List.findSome?_eq_none_iff]
    intro v hv
    have out := outside (v.1, v.2.length) (views_map fits.slots ▸ List.mem_map_of_mem hv)
    split
    · exact List.getElem?_eq_none (by dsimp only at out; omega)
    · rfl
  rw [reportWord, none]
  rfl

/-! ## The views -/

section
variable {s : State}

theorem statusShown (fits : Fits s) : StatusShown s := by
  have remakes : s.spoil.remakes.length < 2 ^ 8 := Nat.lt_of_le_of_lt fits.remakes (by decide)
  have level : s.report.queue.length < 2 ^ 8 := Nat.lt_of_le_of_lt fits.queue (by decide)
  refine ⟨?_, ?_, ?_, ?_, ?_, ?_, ?_⟩
  · rw [view_word fits (n := 0) (i := 0) rfl rfl rfl]
    have policy : ((s.ticket.active.map fun t => t.policy.code).getD 0) < 2 ^ 2 := by
      cases s.ticket.active with
      | none => decide
      | some t => exact t.policy.code_lt
    have packed := ((((((((((packed_put s.ctl.job.code_lt (by decide)).flag s.ctl.command (lo := 4) (by decide) (by decide)).flag
      s.ctl.fault (lo := 5) (by decide) (by decide)).flag s.lines.holdreq (lo := 6) (by decide) (by decide)).flag
      (queueCause s) (lo := 7) (by decide) (by decide)).put (lo := 8) (by decide) policy (by decide)).flag
      s.ticket.waiting.isSome (lo := 10) (by decide) (by decide)).flag s.ctl.snapshot.valid (lo := 11) (by decide)
      (by decide)).put (lo := 16) (by decide) s.ticket.partials.isLt (by decide)).put (lo := 24) (by decide) remakes
      (by decide)).1
    revert packed
    rw [statusWord0]
    cases s.ticket.active <;> exact id
  · rw [view_word fits (n := 0) (i := 1) rfl rfl rfl]
    cases s.ticket.active <;> rfl
  · rw [view_word fits (n := 0) (i := 2) rfl rfl rfl]
    have kind_lt : (s.ticket.waiting.map fun p => p.kind.code.toNat).getD 0 < 2 ^ 8 := by
      cases s.ticket.waiting with
      | none => decide
      | some p => exact p.kind.code.isLt
    have tag_lt : (s.ticket.waiting.map fun p => p.tag.toNat).getD 0 < 2 ^ 8 := by
      cases s.ticket.waiting with
      | none => decide
      | some p => exact p.tag.isLt
    have packed := (((packed_put kind_lt (by decide)).put (lo := 8) (by decide) tag_lt (by decide)).put (lo := 16) (by decide)
      level (by decide)).1
    revert packed
    rw [statusWord2]
    cases s.ticket.waiting with
    | none => exact id
    | some p =>
      cases p with
      | mk kind tag => cases kind <;> exact id
  · rw [view_word fits (n := 1) (i := 0) rfl rfl rfl]
    exact ((((packed_put s.ticket.result.code.isLt (by decide)).put (lo := 8) (by decide) s.ticket.result.tag.isLt
      (by decide)).put (lo := 16) (by decide) s.ticket.result.result.code_lt (by decide)).put (lo := 24) (by decide)
      s.ticket.result.check.isLt (by decide)).1
  · exact view_word fits (n := 1) (i := 1) rfl rfl rfl
  · exact view_word fits (n := 1) (i := 2) rfl rfl rfl
  · exact view_word fits (n := 1) (i := 3) rfl rfl rfl

theorem linesShown (fits : Fits s) : LinesShown s := by
  refine ⟨fun n low => ?_, fun n low => ?_, fun n low => ?_, ?_⟩
  · rw [view_word fits (n := 2) (i := 0) rfl rfl rfl, BitVec.getLsbD_setWidth]
    simp [low]
  · have word : reportWord s 0x8080 = sampledInputs.foldl (fun w n => w ||| putFlag (level s n) n.val) 0 :=
      view_word fits (n := 3) (i := 0) rfl rfl rfl
    rw [word, Bool.eq_iff_iff, gathered_iff, Bool.and_eq_true, decide_eq_true_eq]
    simp only [mem_sampledInputs]
    refine ⟨fun ⟨i, line, same, high⟩ => ?_, fun ⟨line, high⟩ => ?_⟩
    · subst same
      exact ⟨fun zero => line (Fin.ext zero), high⟩
    · have inside : n < 18 := BitVec.lt_of_getLsbD high
      exact ⟨⟨n, inside⟩, fun zero => line (congrArg Fin.val zero), rfl, high⟩
  · have word : reportWord s 0x8084 = sampledInputs.foldl (fun w n => w ||| putFlag (inputActive s n) n.val) 0 :=
      view_word fits (n := 3) (i := 1) rfl rfl rfl
    rw [word, gathered_iff]
    simp only [mem_sampledInputs]
    exact exists_congr fun i => ⟨fun ⟨line, same, active⟩ => ⟨same, line, active⟩,
      fun ⟨same, line, active⟩ => ⟨line, same, active⟩⟩
  · rw [view_word fits (n := 3) (i := 2) rfl rfl rfl]
    exact (((((packed_flag s.spoil.gate).flag (pressHold s) (lo := 1) (by decide) (by decide)).flag (estop s) (lo := 2)
      (by decide) (by decide)).flag (faultOut s) (lo := 3) (by decide) (by decide)).flag (attnOut s) (lo := 4) (by decide)
      (by decide)).1

/-- Word j of stream i's view. -/
theorem stream_word (fits : Fits s) (i : StreamId) {j off : Nat} {x : Word} (small : j < 8)
    (word : (streamView (streamAt s i))[j]? = some x) (here : off = 0x8100 + 32 * i.val + 4 * j) : reportWord s off = x := by
  have place : (streamWords s)[8 * i.val + j]? = some x := by
    rw [streamWords, flatten_getElem? small _ (by simp [streamView])]
    fin_cases i <;> exact word
  exact view_word fits (n := 5) (i := 8 * i.val + j) rfl place (by omega)

/-- Word j of ply k's view. -/
theorem ply_word (fits : Fits s) (k : Ply) {j off : Nat} {x : Word} (small : j < 2)
    (word : (plyView (feeder s k) (s.tally.get k))[j]? = some x) (here : off = 0x8180 + 8 * k.val + 4 * j) :
    reportWord s off = x := by
  have place : (plyWords s)[2 * k.val + j]? = some x := by
    rw [plyWords, flatten_getElem? small _ (by simp [plyView])]
    fin_cases k <;> exact word
  exact view_word fits (n := 6) (i := 2 * k.val + j) rfl place (by omega)

theorem countsShown (fits : Fits s) : CountsShown s where
  pitches := ⟨view_word fits (n := 4) (i := 0) rfl rfl rfl, view_word fits (n := 4) (i := 1) rfl rfl rfl,
    view_word fits (n := 4) (i := 2) rfl rfl rfl⟩
  decisions := ⟨view_word fits (n := 4) (i := 3) rfl rfl rfl, view_word fits (n := 4) (i := 4) rfl rfl rfl,
    view_word fits (n := 4) (i := 5) rfl rfl rfl, view_word fits (n := 4) (i := 6) rfl rfl rfl⟩
  events := ⟨view_word fits (n := 4) (i := 7) rfl rfl rfl, view_word fits (n := 4) (i := 8) rfl rfl rfl,
    view_word fits (n := 4) (i := 9) rfl rfl rfl⟩
  stream i := by
    rw [stream_word fits i (off := 0x8100 + 32 * i.val) (j := 0) (by decide) rfl rfl]
    exact (((((packed_put (streamAt s i).status.code_lt (by decide)).flag (streamAt s i).limit.isSome (lo := 4) (by decide)
      (by decide)).flag (streamAt s i).inFlight (lo := 5) (by decide) (by decide)).flag (streamAt s i).drawn (lo := 6)
      (by decide) (by decide)).put (lo := 16) (by decide) (streamAt s i).u.isLt (by decide)).1
  values i := ⟨stream_word fits i (j := 1) (by decide) rfl (by omega), stream_word fits i (j := 2) (by decide) rfl (by omega),
    stream_word fits i (j := 3) (by decide) rfl (by omega)⟩
  draws i := ⟨stream_word fits i (j := 4) (by decide) rfl (by omega), stream_word fits i (j := 5) (by decide) rfl (by omega),
    stream_word fits i (j := 6) (by decide) rfl (by omega), stream_word fits i (j := 7) (by decide) rfl (by omega)⟩
  ply k := by
    rw [ply_word fits k (off := 0x8180 + 8 * k.val) (j := 0) (by decide) rfl rfl]
    exact ((((packed_put (feeder s k).slotReads.isLt (by decide)).put (lo := 8) (by decide) (feeder s k).strays.isLt
      (by decide)).put (lo := 16) (by decide) (s.tally.get k).reports.isLt (by decide)).put (lo := 24) (by decide)
      (s.tally.get k).malformed.isLt (by decide)).1
  ignored k := by
    rw [ply_word fits k (j := 1) (by decide) rfl (by omega)]
    exact (packed_put (s.tally.get k).ignored.isLt (by decide)).1

/-- The stream mask, bit by bit. -/
theorem streamMask_eq (v : Values) : streamMask v =
    (v.get 0).isSome.toNat + 2 * (v.get 1).isSome.toNat + 4 * (v.get 2).isSome.toNat + 8 * (v.get 3).isSome.toNat := by
  have bit : ∀ (b : Bool) (n : Nat), (if b then 2 ^ n else 0) = 2 ^ n * b.toNat := fun b n => by cases b <;> simp
  simp only [streamMask, fours, List.map_cons, List.map_nil, List.sum_cons, List.sum_nil, bit]
  simp
  omega

theorem queueShown (fits : Fits s) : QueueShown s := by
  have level : s.report.queue.length < 2 ^ 8 := Nat.lt_of_le_of_lt fits.queue (by decide)
  refine ⟨fun empty j low => ?_, fun r rest queue => ?_, ?_⟩
  · have words : dispositionWords s = List.replicate 8 0 := by rw [dispositionWords, empty]
    exact view_word fits (n := 7) (i := j) (ws := dispositionWords s) rfl (by rw [words, List.getElem?_replicate, if_pos low]) rfl
  · have words : dispositionWords s = recordWords r := by rw [dispositionWords, queue]
    have word : ∀ {i off x}, (recordWords r)[i]? = some x → off = 0x81C0 + 4 * i → reportWord s off = x := fun here at_off =>
      view_word fits (n := 7) (ws := dispositionWords s) rfl (words ▸ here) at_off
    cases r with
    | ofSet kind serial attempt stamp causes bits values =>
      have kind_lt : kind.code < 2 ^ 3 := by cases kind <;> decide
      have mask := streamMask_eq values
      have mask_lt : streamMask values < 2 ^ 4 := by
        have := (values.get 0).isSome.toNat_lt
        have := (values.get 1).isSome.toNat_lt
        have := (values.get 2).isSome.toNat_lt
        have := (values.get 3).isSome.toNat_lt
        omega
      have packed := ((((packed_put kind_lt (by decide)).put (lo := 4) (by decide) attempt.isLt (by decide)).put (lo := 8)
        (by decide) mask_lt (by decide)).put (lo := 12) (by decide) bits.isLt (by decide)).1
      refine ⟨?_, word (i := 1) rfl rfl, word (i := 2) rfl rfl, ?_, fun i => ?_⟩
      · rw [word (i := 0) rfl rfl]
        rw [Spells, packed, mask]
        cases kind <;> simp only [SetKind.code, List.map_append, List.map_cons, List.map_nil, List.sum_append, List.sum_cons,
          List.sum_nil] <;> omega
      · rw [word (i := 3) rfl rfl, Spells, BitVec.toNat_setWidth, Nat.mod_eq_of_lt (causes.isLt.trans (by decide))]
        simp
      · refine word (i := 4 + i.val) ?_ (by omega)
        fin_cases i <;> rfl
    | recovery book high =>
      refine ⟨?_, word (i := 1) rfl rfl, word (i := 3) rfl rfl, fun off mem => ?_⟩
      · rw [word (i := 0) rfl rfl]
        exact (packed_put (n := 3) (by decide) (by decide)).1
      · simp only [List.mem_cons, List.not_mem_nil, or_false] at mem
        rcases mem with rfl | rfl | rfl | rfl | rfl
        exacts [word (i := 2) rfl rfl, word (i := 4) rfl rfl, word (i := 5) rfl rfl, word (i := 6) rfl rfl,
          word (i := 7) rfl rfl]
    | stream i stamp first last drawn good void remade =>
      refine ⟨?_, word (i := 1) rfl rfl, word (i := 2) rfl rfl, word (i := 3) rfl rfl, word (i := 4) rfl rfl,
        word (i := 5) rfl rfl, word (i := 6) rfl rfl, word (i := 7) rfl rfl⟩
      rw [word (i := 0) rfl rfl]
      exact ((packed_put (n := 3) (by decide) (by decide)).put (n := 2) (lo := 20) (by decide) i.isLt (by decide)).1
    | job stamp opened good void blank reserveWait =>
      refine ⟨?_, word (i := 1) rfl rfl, word (i := 2) rfl rfl, word (i := 3) rfl rfl, word (i := 4) rfl rfl,
        word (i := 5) rfl rfl, word (i := 6) rfl rfl, word (i := 7) rfl rfl⟩
      rw [word (i := 0) rfl rfl]
      exact ((packed_put (n := 3) (by decide) (by decide)).put (n := 3) (lo := 20) (by decide) (by decide) (by decide)).1
  · rw [view_word fits (off := 0x81E0) (n := 8) (i := 0) rfl rfl rfl]
    exact (packed_put level (by decide)).1

theorem kindCode_eq (k : Option FaultKind) : kindCode k = codeOfKind k := by cases k <;> rfl

/-- Word j of history slot n. -/
theorem history_word (fits : Fits s) {n j off : Nat} {e : Option HistoryEntry} {x : Word} (slot : s.report.slots[n]? = some e)
    (small : j < 4) (word : (historyView e)[j]? = some x) (here : off = 0x8280 + 16 * n + 4 * j) : reportWord s off = x := by
  have uniform : ∀ l ∈ s.report.slots.map historyView, l.length = 4 := by
    simp only [List.mem_map]
    rintro l ⟨e, -, rfl⟩
    exact historyView_length e
  have place : (historyWords s)[4 * n + j]? = some x := by
    rw [historyWords, flatten_getElem? small _ uniform, List.getElem?_map, slot]
    exact word
  exact view_word fits (n := 11) (i := 4 * n + j) rfl place (by omega)

theorem historyShown (fits : Fits s) : HistoryShown s := by
  refine ⟨?_, ⟨?_, ?_⟩, fun k => ?_, ?_, ⟨?_, ?_⟩, ?_, fun j e slot => ⟨?_, ?_, ?_, ?_⟩, fun j slot i low => ?_⟩
  · rw [view_word fits (n := 9) (i := 0) rfl rfl rfl, ← kindCode_eq]
    exact ((((packed_flag s.ctl.snapshot.valid).put (lo := 4) (by decide) s.ctl.snapshot.prev.code_lt (by decide)).put
      (lo := 8) (by decide) (kindCode_lt s.ctl.snapshot.kind) (by decide)).put (lo := 16) (by decide) s.ctl.snapshot.ply.isLt
      (by decide)).1
  · exact view_word fits (n := 9) (i := 1) rfl rfl rfl
  · exact view_word fits (n := 9) (i := 2) rfl rfl rfl
  · refine view_word fits (n := 9) (i := 3 + k.val) (ws := snapshotWords s) rfl ?_ (by omega)
    fin_cases k <;> rfl
  · rw [view_word fits (n := 9) (i := 9) rfl rfl rfl]
    have states := fun k => ((s.ctl.snapshot.images.get k).code_lt)
    exact ((((((packed_zero.put (lo := 0) (by decide) (states 0) (by decide)).put (lo := 2) (by decide) (states 1)
      (by decide)).put (lo := 4) (by decide) (states 2) (by decide)).put (lo := 6) (by decide) (states 3) (by decide)).put
      (lo := 8) (by decide) (states 4) (by decide)).put (lo := 10) (by decide) (states 5) (by decide)).1
  · exact view_word fits (n := 9) (i := 10) rfl rfl rfl
  · exact view_word fits (n := 9) (i := 11) rfl rfl rfl
  · rw [view_word fits (n := 10) (i := 0) rfl rfl rfl]
    exact ((packed_put s.report.head.isLt (by decide)).put (lo := 16) (by decide) s.report.total.isLt (by decide)).1
  · rw [history_word fits slot (off := 0x8280 + 16 * j) (j := 0) (by decide) rfl rfl, ← kindCode_eq]
    exact ((packed_put (kindCode_lt (some e.kind)) (by decide)).put (lo := 8) (by decide) e.ply.isLt (by decide)).1
  · exact history_word fits slot (j := 1) (by decide) rfl (by omega)
  · exact history_word fits slot (j := 2) (by decide) rfl (by omega)
  · exact history_word fits slot (j := 3) (by decide) rfl (by omega)
  · refine history_word fits slot (j := i) low ?_ rfl
    interval_cases i <;> rfl

theorem activeFree_lt (st : Store) : st.activeFree < 2 ^ 9 := by
  unfold Store.activeFree
  split
  · unfold Sector.free Config.sectorSlots
    omega
  · decide

theorem sectorCode_lt (i : Option SectorId) : sectorCode i < 2 ^ 3 := by
  cases i with
  | none => decide
  | some i => exact i.isLt.trans (by decide)

theorem storeShown (fits : Fits s) : StoreShown s := by
  have requests : s.store.queue.length < 2 ^ 8 := Nat.lt_of_le_of_lt fits.requests (by decide)
  have rows : s.store.table.length < 2 ^ 8 := Nat.lt_of_le_of_lt fits.rows (by decide)
  refine ⟨?_, ?_, ?_, ?_, ?_⟩
  · rw [view_word fits (n := 12) (i := 0) rfl rfl rfl]
    have state : storeStateCode s.store < 2 ^ 2 := by
      unfold storeStateCode
      split
      · decide
      · split <;> decide
      · split <;> decide
    have cause : s.store.phase.causeCode < 2 ^ 2 := by
      cases s.store.phase with
      | failed c => cases c <;> decide
      | recovering | inService => decide
    have op_lt : operationCode s.store.op < 2 ^ 2 := by
      cases s.store.op with
      | none => decide
      | some o =>
        cases o with
        | append _ _ _ _ | step _ _ _ _ => exact (by decide : 1 < 2 ^ 2)
        | erase _ => exact (by decide : 2 < 2 ^ 2)
    have packed := ((((((packed_put state (by decide)).put (lo := 2) (by decide) cause (by decide)).flag
      (recoveryEnded s.store) (lo := 4) (by decide) (by decide)).put (lo := 8) (by decide) op_lt (by decide)).put (lo := 12)
      (by decide) (sectorCode_lt s.store.active) (by decide)).put (lo := 16) (by decide)
      (sectorCode_lt (s.store.compaction.map (·.target))) (by decide)).1
    have phase : (s.store.phase.causeCode, (recoveryEnded s.store).toNat) =
        (match s.store.phase with | .failed .sectors => 1 | .failed .worn => 2 | _ => 0,
          match s.store.phase with | .recovering => 0 | _ => 1) := by
      unfold recoveryEnded
      cases s.store.phase with
      | failed c => cases c <;> rfl
      | recovering | inService => rfl
    obtain ⟨cause_eq, ended⟩ := Prod.mk.inj phase
    have op_eq : operationCode s.store.op = match s.store.op with | none => 0 | some (.erase _) => 2 | some _ => 1 := by
      cases s.store.op with
      | none => rfl
      | some o => cases o <;> rfl
    rw [Spells, packed, cause_eq, ended, op_eq] <;> rfl
  · rw [view_word fits (n := 12) (i := 1) rfl rfl rfl]
    have states := fun i => ((s.store.sectors.get i).code_lt)
    exact ((((packed_zero.put (lo := 0) (by decide) (states 0) (by decide)).put (lo := 4) (by decide) (states 1)
      (by decide)).put (lo := 8) (by decide) (states 2) (by decide)).put (lo := 12) (by decide) (states 3) (by decide)).1
  · rw [view_word fits (n := 12) (i := 2) rfl rfl rfl]
    exact (((packed_put (activeFree_lt s.store) (by decide)).put (lo := 16) (by decide) requests (by decide)).put (lo := 24)
      (by decide) rows (by decide)).1
  · exact view_word fits (n := 12) (i := 3) rfl rfl rfl
  · exact view_word fits (n := 12) (i := 4) rfl rfl rfl

end

/-- Settles O29, view by view. -/
theorem reportAreaShowsViews : Obligations.ReportAreaShowsViews := fun _ fits =>
  ⟨statusShown fits, linesShown fits, countsShown fits, queueShown fits, historyShown fits, storeShown fits,
    fun _ => reportWord_outside fits⟩

end Sys2Proof.Machine
end

section
/-! PROOFS. The release of responses: one step of it, the work it has left, and what it does with the feeders' orders and the
upstream face (R49, R50, R67 to R70). -/

namespace Sys2Proof.Machine
open Sys2Proof.Safety

/-! ## What taking a response leaves unchanged -/

/-- The path and the faces as they were. -/
def SameFaces (s t : State) : Prop := t.path = s.path ∧ t.bus = s.bus

theorem applyPathMark_faces (k : Ply) (m : PathMark) (s : State) : SameFaces s (applyPathMark k m s) := by
  unfold applyPathMark
  split
  · unfold completeField
    split <;> exact ⟨rfl, rfl⟩
  · exact ⟨raise_path .., raise_bus ..⟩
  · split
    · exact ⟨raise_path .., raise_bus ..⟩
    · exact ⟨rfl, rfl⟩

theorem applyPathMarks_faces (k : Ply) (ms : List PathMark) (s : State) :
    SameFaces s (ms.foldl (fun s m => applyPathMark k m s) s) := by
  induction ms generalizing s with
  | nil => exact ⟨rfl, rfl⟩
  | cons m ms ih =>
    obtain ⟨path, bus⟩ := applyPathMark_faces k m s
    obtain ⟨path', bus'⟩ := ih (applyPathMark k m s)
    exact ⟨path'.trans path, bus'.trans bus⟩

/-- A response taken changes feeder k's continuation record alone and goes upstream. -/
theorem takeResponse_faces (k : Ply) (r : Response) (s : State) : ∃ cont x, SentFor r x ∧
    (takeResponse k r s).path = (setFeeder k { feeder s k with cont } s).path ∧
    (takeResponse k r s).bus = { s.bus with upstream := s.bus.upstream ++ [(feederId k, x)] } := by
  unfold takeResponse
  split
  next empty =>
    have same : setFeeder k { feeder s k with cont := (feeder s k).cont } s = s := by
      unfold setFeeder State.setPath
      rw [show s.path.feeders.set k { feeder s k with cont := (feeder s k).cont } = s.path.feeders from Six.set_get_self ..]
    exact ⟨(feeder s k).cont, r, ⟨rfl, rfl, rfl⟩, by rw [same]; rfl, rfl⟩
  next =>
    dsimp only
    obtain ⟨path, bus⟩ := applyPathMarks_faces k ((resume? (feeder s k).cont r.addr).2 ++
      (renderWords s k r.addr (resume? (feeder s k).cont r.addr).1 r.words).2.1) (setFeeder k { feeder s k with
        cont := (renderWords s k r.addr (resume? (feeder s k).cont r.addr).1 r.words).2.2.map fun x =>
          { glyphs := x.glyphs, next := wordAddr r.addr r.words.length, serial := x.serial, attempt := x.attempt } } s)
    exact ⟨_, { r with words := (renderWords s k r.addr (resume? (feeder s k).cont r.addr).1 r.words).1 },
      ⟨rfl, rfl, renderWords_length ..⟩, path, by unfold sendUp; rw [bus]; rfl⟩

theorem takeResponse_feeder_other {j k : Ply} (r : Response) (s : State) (h : j ≠ k) :
    feeder (takeResponse k r s) j = feeder s j := by
  obtain ⟨cont, x, -, path, -⟩ := takeResponse_faces k r s
  rw [feeder, path]
  exact feeder_setFeeder_other _ _ h

theorem takeResponse_feeder_same (k : Ply) (r : Response) (s : State) :
    ∃ cont, feeder (takeResponse k r s) k = { feeder s k with cont } := by
  obtain ⟨cont, x, -, path, -⟩ := takeResponse_faces k r s
  refine ⟨cont, ?_⟩
  rw [feeder, path]
  exact feeder_setFeeder_same ..

/-- A response taken keeps every order as it is. -/
theorem takeResponse_queue (j k : Ply) (r : Response) (s : State) :
    (feeder (takeResponse k r s) j).queue = (feeder s j).queue := by
  by_cases same : j = k
  · subst same
    obtain ⟨cont, kept⟩ := takeResponse_feeder_same j r s
    rw [kept]
  · rw [takeResponse_feeder_other r s same]

theorem headGone_eq (k : Ply) (s : State) : headGone k s =
    setFeeder k { feeder s k with queue := (feeder s k).queue.tail, held := false, timer := none } s := rfl

theorem headHeld_eq (k : Ply) (s : State) :
    headHeld k s = setFeeder k { feeder s k with held := true, timer := some (bindLimitOf s) } s := rfl

/-! ## One step of the release -/

section
variable {s : State} {k : Ply} {r : Response}

theorem serveHead_take (head : (feeder s k).queue.head? = some r) (free : mustHold s k r = false) :
    serveHead k s = takeResponse k r (headGone k s) := by
  rw [← takeHead_of_head head, serveHead]
  obtain ⟨rest, queue⟩ := List.head?_eq_some_iff.1 head
  rw [queue]
  dsimp only
  rw [free, if_neg Bool.false_ne_true]

theorem serveHead_held (head : (feeder s k).queue.head? = some r) (meets : mustHold s k r = true) :
    serveHead k s = holdHead k s := by
  obtain ⟨rest, queue⟩ := List.head?_eq_some_iff.1 head
  rw [serveHead, queue]
  dsimp only
  rw [if_pos meets]

theorem serveHead_hold (head : (feeder s k).queue.head? = some r) (meets : mustHold s k r = true)
    (limit : bindLimitOf s ≠ 0) : serveHead k s = headHeld k s :=
  (serveHead_held head meets).trans (if_neg limit)

theorem serveHead_expire (head : (feeder s k).queue.head? = some r) (meets : mustHold s k r = true)
    (limit : bindLimitOf s = 0) :
    serveHead k s = raise .bindTimeout (plyNumber k) 0 { headHeld k s with pipe := blanked s.pipe } := by
  refine (serveHead_held head meets).trans ((if_pos limit).trans ?_)
  rw [bindExpire, blankPending_eq]
  rfl

theorem headReady_iff : headReady s k = true ↔
    ∃ r, (feeder s k).queue.head? = some r ∧ ((feeder s k).held = false ∨ mustHold s k r = false) := by
  unfold headReady
  cases queue : (feeder s k).queue with
  | nil => simp
  | cons r rest => simp

theorem headReady_of_head (head : (feeder s k).queue.head? = some r) :
    headReady s k = (!(feeder s k).held || !mustHold s k r) := by
  obtain ⟨rest, queue⟩ := List.head?_eq_some_iff.1 head
  rw [headReady, queue]

theorem headReady_empty (empty : (feeder s k).queue = []) : headReady s k = false := by
  rw [headReady, empty]

end

/-! ## The work left -/

/-- What is left to do for a feeder: two steps a response, one where its first is held. -/
def Feeder.work (f : Feeder) : Nat := 2 * f.queue.length - (if f.held ∧ f.queue ≠ [] then 1 else 0)

/-- What is left to do for all feeders. -/
def work (s : State) : Nat := (s.path.feeders.toList.map Feeder.work).sum

theorem Six.sum_set {α : Type} (v : Six α) (k : Fin 6) (x : α) (g : α → Nat) :
    ((v.set k x).toList.map g).sum + g (v.get k) = (v.toList.map g).sum + g x := by
  fin_cases k <;> simp [Six.set, Six.get, Six.toList] <;> omega

theorem Six.le_sum {α : Type} (v : Six α) (k : Fin 6) (g : α → Nat) : g (v.get k) ≤ (v.toList.map g).sum := by
  fin_cases k <;> simp [Six.get, Six.toList] <;> omega

theorem work_of_path {s t : State} {k : Ply} {f : Feeder} (path : t.path = (setFeeder k f s).path) :
    work t + (feeder s k).work = work s + f.work := by
  unfold work
  rw [path]
  exact Six.sum_set ..

theorem work_le (s : State) : work s ≤ 2 * waitingResponses s := by
  have each : ∀ f : Feeder, f.work ≤ 2 * f.queue.length := fun f => Nat.sub_le ..
  simp only [work, waitingResponses, Six.toList, List.map_cons, List.map_nil, List.sum_cons, List.sum_nil]
  have := each s.path.feeders.p1
  have := each s.path.feeders.p2
  have := each s.path.feeders.p3
  have := each s.path.feeders.p4
  have := each s.path.feeders.p5
  have := each s.path.feeders.p6
  omega

/-- A step of the release leaves less to do. -/
theorem serveHead_work {s : State} {k : Ply} (ready : headReady s k = true) : work (serveHead k s) < work s := by
  obtain ⟨r, head, why⟩ := headReady_iff.1 ready
  obtain ⟨rest, queue⟩ := List.head?_eq_some_iff.1 head
  cases meets : mustHold s k r with
  | false =>
    obtain ⟨cont, x, -, path, -⟩ := takeResponse_faces k r (headGone k s)
    have path' : (serveHead k s).path = (setFeeder k { feeder s k with
        queue := rest, held := false, timer := none, cont } s).path := by
      rw [serveHead_take head meets, path, headGone_eq, feeder_setFeeder_same, queue]
      cases s.path.feeders
      fin_cases k <;> rfl
    have balance := work_of_path path'
    have before : 2 * rest.length + 1 ≤ (feeder s k).work := by
      unfold Feeder.work
      rw [queue, List.length_cons]
      split <;> omega
    have after : Feeder.work { feeder s k with queue := rest, held := false, timer := none, cont } = 2 * rest.length := by
      simp [Feeder.work]
    omega
  | true =>
    have free : (feeder s k).held = false := by
      rcases why with h | h
      · exact h
      · exact absurd (meets.symm.trans h) (by simp)
    have path' : (serveHead k s).path =
        (setFeeder k { feeder s k with held := true, timer := some (bindLimitOf s) } s).path := by
      by_cases limit : bindLimitOf s = 0
      · rw [serveHead_expire head meets limit, raise_path]
        rfl
      · rw [serveHead_hold head meets limit]
        rfl
    have balance := work_of_path path'
    have before : (feeder s k).work = 2 * rest.length + 2 := by
      unfold Feeder.work
      rw [queue, free, List.length_cons]
      simp
      omega
    have after : Feeder.work { feeder s k with held := true, timer := some (bindLimitOf s) } = 2 * rest.length + 1 := by
      simp only [Feeder.work, queue, List.length_cons]
      simp
      omega
    omega

theorem work_pos {s : State} {k : Ply} (ready : headReady s k = true) : 0 < work s :=
  Nat.zero_lt_of_lt (serveHead_work ready)

/-! ## The release, step by step -/

theorem pickFeeder_eq_none {c : Nat} {ks : List Ply} : pickFeeder c ks = none ↔ ks = [] := by
  cases ks with
  | nil => simp [pickFeeder]
  | cons k ks => cases ks <;> simp [pickFeeder]

theorem pickFeeder_mem {c : Nat} {ks : List Ply} {k : Ply} (h : pickFeeder c ks = some k) : k ∈ ks := by
  cases ks with
  | nil => cases h
  | cons a ks =>
    cases ks with
    | nil =>
      injection h with h
      simp [h]
    | cons b ks =>
      injection h with h
      subst h
      have inside : Config.freePick c % (ks.length + 1 + 1) < (a :: b :: ks).length := Nat.mod_lt _ (by simp)
      rw [List.length_cons, List.getD_eq_getElem _ _ inside]
      exact List.getElem_mem inside

theorem readyFeeders_nil {s : State} : plies.filter (headReady s) = [] ↔ ∀ k, headReady s k = false := by
  rw [List.filter_eq_nil_iff]
  exact ⟨fun h k => by simpa using h k (mem_plies k), fun h k _ => by simp [h k]⟩

theorem settleFor_idle (n : Nat) {s : State} (idle : ∀ k, headReady s k = false) : settleFor n s = s := by
  cases n with
  | zero => rfl
  | succ n =>
    rw [settleFor, readyFeeders_nil.2 idle] <;> rfl

/-- A step of the release: the feeder picked is served, the free order's counter having moved on. -/
theorem settleFor_step (n : Nat) {s : State} (some_ready : ∃ k, headReady s k = true) : ∃ k c, headReady s k = true ∧
    settleFor (n + 1) s = settleFor n (serveHead k (s.setFree c)) ∧
    ((∀ j, j ≠ k → headReady s j = false) → c = s.freeCount) := by
  obtain ⟨j, ready⟩ := some_ready
  cases picked : pickFeeder s.freeCount (plies.filter (headReady s)) with
  | none =>
    have idle := readyFeeders_nil.1 (pickFeeder_eq_none.1 picked) j
    exact absurd (ready.symm.trans idle) (by simp)
  | some k =>
    have chosen := List.mem_filter.1 (pickFeeder_mem picked)
    refine ⟨k, s.freeCount + freeUse (plies.filter (headReady s)).length, chosen.2, ?_, fun alone => ?_⟩
    · rw [settleFor, picked]
    · have one : (plies.filter (headReady s)).length ≤ 1 := by
        have nodup : (plies.filter (headReady s)).Nodup := List.Nodup.filter _ (by decide)
        have only : plies.filter (headReady s) ⊆ [k] := fun x hx => by
          by_contra other
          exact absurd ((List.mem_filter.1 hx).2.symm.trans (alone x (by simpa using other))) (by simp)
        exact (List.subperm_of_subset nodup only).length_le
      rw [freeUse, if_pos one, Nat.add_zero]

theorem setFree_self (s : State) : s.setFree s.freeCount = s := rfl

theorem headReady_setFree (s : State) (c : Nat) (k : Ply) : headReady (s.setFree c) k = headReady s k := rfl

theorem work_setFree (s : State) (c : Nat) : work (s.setFree c) = work s := rfl

/-- More steps than the work asks for change nothing. -/
theorem settleFor_enough (m n : Nat) (s : State) (hm : work s ≤ m) (hn : work s ≤ n) : settleFor m s = settleFor n s := by
  induction m generalizing n s with
  | zero =>
    have idle : ∀ k, headReady s k = false := fun k => by
      by_contra ready
      exact absurd (work_pos (Bool.not_eq_false _ ▸ ready)) (by omega)
    rw [settleFor_idle n idle]
    rfl
  | succ m ih =>
    by_cases some_ready : ∃ k, headReady s k = true
    · cases n with
      | zero =>
        obtain ⟨k, ready⟩ := some_ready
        exact absurd (work_pos ready) (by omega)
      | succ n =>
        rw [settleFor, settleFor]
        cases picked : pickFeeder s.freeCount (plies.filter (headReady s)) with
        | none => rfl
        | some k =>
          have ready := (List.mem_filter.1 (pickFeeder_mem picked)).2
          have less := serveHead_work (s := s.setFree (s.freeCount + freeUse (plies.filter (headReady s)).length)) (k := k) ready
          rw [work_setFree] at less
          exact ih n _ (by omega) (by omega)
    · have idle : ∀ k, headReady s k = false := fun k => Bool.eq_false_iff.2 fun ready => some_ready ⟨k, ready⟩
      rw [settleFor_idle _ idle, settleFor_idle _ idle]

theorem settle_idle {s : State} (idle : ∀ k, headReady s k = false) : settle s = s := settleFor_idle _ idle

/-- One step of `settle`. -/
theorem settle_step {s : State} (some_ready : ∃ k, headReady s k = true) : ∃ k c, headReady s k = true ∧
    settle s = settle (serveHead k (s.setFree c)) ∧ ((∀ j, j ≠ k → headReady s j = false) → c = s.freeCount) := by
  have enough := work_le s
  cases fuel : 2 * waitingResponses s with
  | zero =>
    obtain ⟨k, ready⟩ := some_ready
    exact absurd (work_pos ready) (by omega)
  | succ n =>
    obtain ⟨k, c, ready, step, alone⟩ := settleFor_step n some_ready
    refine ⟨k, c, ready, ?_, alone⟩
    have less := serveHead_work (s := s.setFree c) (k := k) ready
    rw [work_setFree] at less
    rw [settle, fuel, step]
    exact settleFor_enough _ _ _ (by omega) (work_le _)

/-- One step of `settle` where one feeder alone is ready. -/
theorem settle_only {s : State} {k : Ply} (ready : headReady s k = true) (alone : ∀ j, j ≠ k → headReady s j = false) :
    settle s = settle (serveHead k s) := by
  obtain ⟨j, c, ready', step, still⟩ := settle_step ⟨k, ready⟩
  have same : j = k := by
    by_contra other
    exact absurd (ready'.symm.trans (alone j other)) (by simp)
  subst same
  rwa [still alone, setFree_self] at step

/-- What a step keeps, the release keeps. -/
theorem settle_induction {P : State → Prop} (step : ∀ s k c, headReady s k = true → P s → P (serveHead k (s.setFree c)))
    {s : State} (start : P s) : P (settle s) := by
  have each : ∀ n s, P s → P (settleFor n s) := by
    intro n
    induction n with
    | zero => exact fun s h => h
    | succ n ih =>
      intro s h
      by_cases some_ready : ∃ k, headReady s k = true
      · obtain ⟨k, c, ready, next, -⟩ := settleFor_step n some_ready
        rw [next]
        exact ih _ (step s k c ready h)
      · rw [settleFor_idle _ fun k => Bool.eq_false_iff.2 fun ready => some_ready ⟨k, ready⟩]
        exact h
  exact each _ _ start

/-- The release ends where no feeder is ready. -/
theorem settle_ends (s : State) : ∀ k, headReady (settle s) k = false := by
  have each : ∀ n s, work s ≤ n → ∀ k, headReady (settleFor n s) k = false := by
    intro n
    induction n with
    | zero =>
      intro s none k
      by_contra ready
      exact absurd (work_pos (s := s) (Bool.not_eq_false _ ▸ ready)) (by omega)
    | succ n ih =>
      intro s few
      by_cases some_ready : ∃ k, headReady s k = true
      · obtain ⟨k, c, ready, next, -⟩ := settleFor_step n some_ready
        have less := serveHead_work (s := s.setFree c) (k := k) ready
        rw [work_setFree] at less
        rw [next]
        exact ih _ (by omega)
      · have idle : ∀ k, headReady s k = false := fun k => Bool.eq_false_iff.2 fun ready => some_ready ⟨k, ready⟩
        rw [settleFor_idle _ idle]
        exact idle
  exact each _ _ (work_le s)

/-! ## The orders and the upstream face -/

theorem feederId_injective : Function.Injective feederId := by
  intro j k
  revert j k
  decide

/-- What a release has let go for feeder k, in issue order, and sent up in that order. -/
def Released (k : Ply) (s t : State) : Prop := ∃ released sent : List Response,
  (feeder s k).queue = released ++ (feeder t k).queue ∧ sentTo k t = sentTo k s ++ sent ∧
    List.Forall₂ SentFor released sent

theorem Released.refl (k : Ply) (s : State) : Released k s s := ⟨[], [], rfl, by simp, .nil⟩

theorem Released.trans {k : Ply} {s t u : State} (h : Released k s t) (g : Released k t u) : Released k s u := by
  obtain ⟨a, x, order, up, each⟩ := h
  obtain ⟨b, y, order', up', each'⟩ := g
  exact ⟨a ++ b, x ++ y, by rw [order, order', List.append_assoc], by rw [up', up, List.append_assoc],
    List.rel_append each each'⟩

theorem sentTo_append (j k : Ply) (x : Response) {s t : State}
    (bus : t.bus = { s.bus with upstream := s.bus.upstream ++ [(feederId k, x)] }) :
    sentTo j t = sentTo j s ++ if j = k then [x] else [] := by
  rw [sentTo, bus, List.filter_append, List.map_append]
  congr 1
  by_cases same : j = k
  · subst same; simp
  · have apart : feederId k ≠ feederId j := fun h => same (feederId_injective h).symm
    simp [apart, same]

theorem serveHead_released {s : State} {k : Ply} (ready : headReady s k = true) (j : Ply) : Released j s (serveHead k s) := by
  obtain ⟨r, head, -⟩ := headReady_iff.1 ready
  obtain ⟨rest, queue⟩ := List.head?_eq_some_iff.1 head
  cases meets : mustHold s k r with
  | false =>
    obtain ⟨cont, x, sent, -, bus⟩ := takeResponse_faces k r (headGone k s)
    rw [serveHead_take head meets]
    have up := sentTo_append j k x bus
    rw [show sentTo j (headGone k s) = sentTo j s from rfl] at up
    by_cases same : j = k
    · subst same
      refine ⟨[r], [x], ?_, by rw [up, if_pos rfl], .cons sent .nil⟩
      rw [takeResponse_queue, headGone_eq, feeder_setFeeder_same, queue]
      rfl
    · refine ⟨[], [], ?_, by rw [up, if_neg same], .nil⟩
      rw [takeResponse_queue, headGone_eq, feeder_setFeeder_other _ _ same]
      rfl
  | true =>
    have queues : (feeder (headHeld k s) j).queue = (feeder s j).queue := by
      rw [headHeld_eq]
      by_cases same : j = k
      · subst same; rw [feeder_setFeeder_same]
      · rw [feeder_setFeeder_other _ _ same]
    by_cases limit : bindLimitOf s = 0
    · rw [serveHead_expire head meets limit]
      refine ⟨[], [], ?_, ?_, .nil⟩
      · rw [feeder, feeder, raise_path]
        exact queues.symm
      · rw [sentTo, raise_bus]
        exact (List.append_nil _).symm
    · rw [serveHead_hold head meets limit]
      exact ⟨[], [], queues.symm, (List.append_nil _).symm, .nil⟩

/-- Settles O34: the release's end, what it lets go, and its steps. -/
theorem releaseServesAll : Obligations.ReleaseServesAll := by
  refine ⟨fun s k r head => ?_, fun s k => ?_, fun s idle => settle_idle idle, fun s some_ready => ?_, fun s => ?_,
    fun s k r head => takeHead_of_head head⟩
  · have idle := settle_ends s k
    rw [headReady_of_head head, Bool.or_eq_false_iff, Bool.not_eq_false', Bool.not_eq_false'] at idle
    exact idle
  · exact settle_induction (P := Released k s) (fun t j c ready before =>
      before.trans (serveHead_released (s := t.setFree c) ready k)) (.refl k s)
  · obtain ⟨k, c, ready, step, alone⟩ := settle_step some_ready
    obtain ⟨r, head, -⟩ := headReady_iff.1 ready
    exact ⟨k, r, c, s.setFree c, ready, head, rfl, fun only => by rw [alone only, setFree_self],
      fun free => step.trans (congrArg settle (serveHead_take (s := s.setFree c) head free)),
      fun meets limit => step.trans (congrArg settle (serveHead_hold (s := s.setFree c) head meets limit)),
      fun meets limit => step.trans (congrArg settle (serveHead_expire (s := s.setFree c) head meets limit))⟩
  · exact ⟨arrange s.freeCount (plies.filter fun k => (feeder s k).held && headReady s k), _, arrange_perm _ _, rfl⟩

end Sys2Proof.Machine
end

section
/-! PROOFS. A read response of a feeder (R49, R50, R67 to R69), and that no release makes an entry PENDING. -/

namespace Sys2Proof.Machine
open Sys2Proof.Safety

/-! ## No new PENDING entry -/

/-- Every PENDING entry was one before. -/
def NoNewPending (s t : State) : Prop := ∀ p, (entryAt t p).isPending = true → (entryAt s p).isPending = true

theorem entryAt_isPending (s : State) (p : Nat) : (entryAt s p).isPending = (pends s).getD p false := by
  unfold entryAt pends
  rw [List.getD_eq_getElem?_getD, List.getD_eq_getElem?_getD, List.getElem?_map]
  cases s.pipe.entries[p]? <;> rfl

theorem NoNewPending.of_pends {s t : State} (h : pends t = pends s) : NoNewPending s t := fun p => by
  rw [entryAt_isPending, entryAt_isPending, h]
  exact id

theorem NoNewPending.refl (s : State) : NoNewPending s s := fun _ h => h

theorem NoNewPending.after {s t u : State} (g : NoNewPending t u) (h : NoNewPending s t) : NoNewPending s u :=
  fun p pending => h p (g p pending)

theorem entryAt_blankPending (s : State) (p : Nat) :
    (entryAt (blankPending s) p).isPending = (decide (p ≠ 0) && (entryAt s p).isPending) := by
  rw [entryAt_isPending, entryAt_isPending, blankPending_pends]
  cases pends s with
  | nil => simp
  | cons b bs => cases p <;> simp

theorem noNewPending_blank (s : State) : NoNewPending s (blankPending s) := fun p h => by
  rw [entryAt_blankPending, Bool.and_eq_true] at h
  exact h.2

theorem noNewPending_raise (kind : FaultKind) (ply : BitVec 3) (serial : Word) (s : State) :
    NoNewPending s (raise kind ply serial s) := by
  cases op : s.ctl.inOperation with
  | true => rw [raise_inside op]; exact .refl s
  | false =>
    rw [raise_outside op]
    unfold acted
    have blank : NoNewPending s ({ s with report := recorded kind ply serial s, pipe := blanked s.pipe } : State) := by
      have same := blankPending_eq { s with report := recorded kind ply serial s }
      exact same ▸ noNewPending_blank { s with report := recorded kind ply serial s }
    split
    · exact .refl s
    · split
      · exact blank
      · exact .refl s
    · split
      · refine .after (.of_pends ?_) blank
        refine (List.map_map ..).trans (List.map_congr_left fun e _ => ?_)
        cases e <;> rfl
      · exact .refl s

theorem changeSet_pends (n : Word) (a : BitVec 2) (f : SetEntry → SetEntry) (s : State) :
    pends (changeSet n a f s) = pends s := by
  refine (List.map_map ..).trans (List.map_congr_left fun e _ => ?_)
  cases e with
  | set x => simp only [Function.comp]; split <;> rfl
  | blank | pending => rfl

/-- What serving a response keeps: no new PENDING entry, and no fault flag cleared. -/
structure Served (s t : State) : Prop where
  pending : NoNewPending s t
  flags : ∀ n, s.report.flags.getLsbD n = true → t.report.flags.getLsbD n = true

theorem Served.refl (s : State) : Served s s := ⟨.refl s, fun _ h => h⟩

theorem Served.after {s t u : State} (g : Served t u) (h : Served s t) : Served s u :=
  ⟨g.pending.after h.pending, fun n on => g.flags n (h.flags n on)⟩

theorem Served.of_eq {s t : State} (h : pends t = pends s) (g : t.report = s.report) : Served s t :=
  ⟨.of_pends h, fun _ on => g.symm ▸ on⟩

theorem served_raise (kind : FaultKind) (ply : BitVec 3) (serial : Word) (s : State) : Served s (raise kind ply serial s) :=
  ⟨noNewPending_raise kind ply serial s, fun n on => by rw [raise_flags, BitVec.getLsbD_or, on, Bool.true_or]⟩

theorem served_blank (s : State) : Served s (blankPending s) :=
  ⟨noNewPending_blank s, fun _ on => by rw [blankPending_eq]; exact on⟩

theorem served_applyPathMark (k : Ply) (m : PathMark) (s : State) : Served s (applyPathMark k m s) := by
  unfold applyPathMark
  split
  · unfold completeField
    split
    · exact .refl s
    · exact .of_eq (changeSet_pends ..) rfl
  · exact (served_raise ..).after (.of_eq (changeSet_pends ..) rfl)
  · split
    · exact (served_raise ..).after (.of_eq (changeSet_pends ..) rfl)
    · exact .refl s

theorem served_applyPathMarks (k : Ply) (ms : List PathMark) (s : State) :
    Served s (ms.foldl (fun s m => applyPathMark k m s) s) := by
  induction ms generalizing s with
  | nil => exact .refl s
  | cons m ms ih => exact (ih _).after (served_applyPathMark k m s)

theorem served_takeResponse (k : Ply) (r : Response) (s : State) : Served s (takeResponse k r s) := by
  unfold takeResponse
  split
  · exact .of_eq rfl rfl
  · dsimp only
    refine Served.after (t := List.foldl _ (setFeeder k _ s) _) (.of_eq rfl rfl) ?_
    exact (served_applyPathMarks ..).after (.of_eq rfl rfl)

theorem served_serveHead (k : Ply) (s : State) : Served s (serveHead k s) := by
  unfold serveHead
  split
  · exact .refl s
  next r rest queue =>
    split
    · unfold holdHead bindExpire
      dsimp only
      split
      · exact (served_raise ..).after ((served_blank _).after (.of_eq rfl rfl))
      · exact .of_eq rfl rfl
    · rw [takeHead_of_head (r := r) (by rw [queue]; rfl)]
      exact (served_takeResponse ..).after (.of_eq rfl rfl)

theorem served_settle (s : State) : Served s (settle s) :=
  settle_induction (P := Served s) (fun t k c _ before => (served_serveHead k (t.setFree c)).after
    (Served.after (t := t) (.of_eq rfl rfl) before))
    (.refl s)

/-- With no PENDING entry no response is held. -/
theorem mustHold_calm {s : State} (calm : ∀ p, (entryAt s p).isPending = false) (k : Ply) (r : Response) :
    mustHold s k r = false := by
  unfold mustHold
  split
  next p _ => rw [calm p, Bool.and_false, Bool.false_and]
  next => rw [Bool.and_false, Bool.false_and]

/-- A release that finds no PENDING entry leaves no response. -/
theorem settle_calm {s : State} (calm : ∀ p, (entryAt s p).isPending = false) (k : Ply) :
    (feeder (settle s) k).queue = [] := by
  cases queue : (feeder (settle s) k).queue with
  | nil => rfl
  | cons r rest =>
    have idle := settle_ends s k
    rw [headReady_of_head (r := r) (by rw [queue]; rfl)] at idle
    have calm' : ∀ p, (entryAt (settle s) p).isPending = false := fun p =>
      Bool.eq_false_iff.2 fun pending => Bool.false_ne_true ((calm p).symm.trans ((served_settle s).pending p pending))
    rw [mustHold_calm calm' k r, Bool.not_false, Bool.or_true] at idle
    cases idle

/-! ## A response joins its order (R49, R50) -/

/-- A hold depends on the job state, the ticket, the pipeline, the window and the feeder's record. -/
theorem mustHold_congr {s t : State} {k : Ply} (ctl : t.ctl = s.ctl) (ticket : t.ticket = s.ticket) (pipe : t.pipe = s.pipe)
    (wbase : t.path.wbase = s.path.wbase) (cont : (feeder t k).cont = (feeder s k).cont) (r : Response) :
    mustHold t k r = mustHold s k r := by
  unfold mustHold headPosOf entryAt holdsToken
  rw [ctl, ticket, pipe, wbase, cont]

theorem mustHold_setFeeder {s : State} {j k : Ply} {f : Feeder} (cont : f.cont = (feeder s k).cont) (r : Response) :
    mustHold (setFeeder k f s) j r = mustHold s j r := by
  refine mustHold_congr (s := s) (t := setFeeder k f s) rfl rfl rfl rfl ?_ r
  by_cases same : j = k
  · subst same
    rw [feeder_setFeeder_same, cont]
  · rw [feeder_setFeeder_other _ _ same]

theorem headReady_setFeeder_other {s : State} {j k : Ply} {f : Feeder} (cont : f.cont = (feeder s k).cont) (h : j ≠ k) :
    headReady (setFeeder k f s) j = headReady s j := by
  unfold headReady
  rw [feeder_setFeeder_other _ _ h]
  cases (feeder s j).queue with
  | nil => rfl
  | cons r rest =>
    dsimp only
    rw [mustHold_setFeeder cont]

/-- Feeder k's record with one response at its head, not held yet. -/
def firstOf (f : Feeder) (r : Response) : Feeder := { f with queue := [r], held := false, timer := none }

/-- Feeder k's record with one response held. -/
def holdingOf (f : Feeder) (r : Response) (limit : Byte) : Feeder :=
  { f with queue := [r], held := true, timer := some limit }

theorem holding_eq (k : Ply) (r : Response) (s : State) :
    holding k r s = setFeeder k (holdingOf (feeder s k) r (bindLimitOf s)) s := rfl

/-- Feeder k with one response at its head, not held yet. -/
def arrivedFirst (k : Ply) (r : Response) (s : State) : State := setFeeder k (firstOf (feeder s k) r) s

section
variable {k : Ply} {r : Response} {s : State}

theorem exec_readResponse_first (works : s.resetting = false) (empty : (feeder s k).queue = []) :
    exec (.readResponse k r) s = .next (settle (arrivedFirst k r (quiet s))) := by
  refine congrArg Host.Outcome.next ((if_neg (by rw [show (begin s).resetting = s.resetting from rfl, works]; simp)).trans ?_)
  unfold receiveResponse
  dsimp only
  rw [show feeder (begin s) k = feeder s k from rfl, empty] <;> rfl

theorem exec_readResponse_behind (works : s.resetting = false) (some_first : (feeder s k).queue ≠ []) :
    exec (.readResponse k r) s = .next (settle (setFeeder k { feeder s k with queue := (feeder s k).queue ++ [r] } (quiet s))) := by
  refine congrArg Host.Outcome.next ((if_neg (by rw [show (begin s).resetting = s.resetting from rfl, works]; simp)).trans ?_)
  unfold receiveResponse
  dsimp only
  rw [show feeder (begin s) k = feeder s k from rfl]
  cases queue : (feeder s k).queue with
  | nil => exact absurd queue some_first
  | cons x rest => rfl

@[simp] theorem arrivedFirst_feeder : feeder (arrivedFirst k r s) k = firstOf (feeder s k) r :=
  feeder_setFeeder_same ..

theorem arrivedFirst_mustHold (j : Ply) (x : Response) : mustHold (arrivedFirst k r s) j x = mustHold s j x :=
  mustHold_setFeeder (f := firstOf (feeder s k) r) rfl x

theorem arrivedFirst_ready : headReady (arrivedFirst k r s) k = true := by
  rw [headReady_of_head (r := r) (by rw [arrivedFirst_feeder]; rfl), arrivedFirst_feeder]
  rfl

theorem arrivedFirst_alone (others : ∀ j, j ≠ k → headReady s j = false) :
    ∀ j, j ≠ k → headReady (arrivedFirst k r s) j = false := fun j h =>
  (headReady_setFeeder_other (f := firstOf (feeder s k) r) rfl h).trans (others j h)

theorem setFeeder_setFeeder (f g : Feeder) : setFeeder k f (setFeeder k g s) = setFeeder k f s := by
  have twice : (s.path.feeders.set k g).set k f = s.path.feeders.set k f := by fin_cases k <;> rfl
  exact congrArg (fun v => s.setPath { s.path with feeders := v }) twice

theorem headGone_arrivedFirst : headGone k (arrivedFirst k r s) = unheld k s := by
  rw [headGone_eq, arrivedFirst_feeder]
  exact setFeeder_setFeeder ..

theorem headHeld_arrivedFirst : headHeld k (arrivedFirst k r s) = holding k r s := by
  rw [headHeld_eq, arrivedFirst_feeder]
  exact setFeeder_setFeeder ..

theorem settle_arrivedFirst_free (others : ∀ j, j ≠ k → headReady s j = false) (free : mustHold s k r = false) :
    settle (arrivedFirst k r s) = settle (takeResponse k r (unheld k s)) := by
  rw [settle_only arrivedFirst_ready (arrivedFirst_alone others),
    serveHead_take (r := r) (by rw [arrivedFirst_feeder]; rfl) (by rw [arrivedFirst_mustHold, free]), headGone_arrivedFirst]

theorem settle_arrivedFirst_hold (others : ∀ j, j ≠ k → headReady s j = false) (meets : mustHold s k r = true)
    (limit : bindLimitOf s ≠ 0) : settle (arrivedFirst k r s) = holding k r s := by
  rw [settle_only arrivedFirst_ready (arrivedFirst_alone others),
    serveHead_hold (s := arrivedFirst k r s) (r := r) (by rw [arrivedFirst_feeder]; rfl) (by rw [arrivedFirst_mustHold, meets]) limit,
    headHeld_arrivedFirst]
  refine settle_idle fun j => ?_
  by_cases same : j = k
  · subst same
    rw [holding_eq, headReady_of_head (r := r) (by rw [feeder_setFeeder_same]; rfl), feeder_setFeeder_same,
      mustHold_setFeeder (f := holdingOf (feeder s j) r (bindLimitOf s)) rfl, meets]
    rfl
  · rw [holding_eq]
    exact (headReady_setFeeder_other (f := holdingOf (feeder s k) r (bindLimitOf s)) rfl same).trans (others j same)

/-- The state of an ended wait, its fault raised. -/
def expired (k : Ply) (r : Response) (s : State) : State :=
  raise .bindTimeout (plyNumber k) 0 { holding k r s with pipe := blanked s.pipe }

theorem settle_arrivedFirst_expire (others : ∀ j, j ≠ k → headReady s j = false) (meets : mustHold s k r = true)
    (limit : bindLimitOf s = 0) : settle (arrivedFirst k r s) = settle (expired k r s) := by
  rw [settle_only arrivedFirst_ready (arrivedFirst_alone others),
    serveHead_expire (s := arrivedFirst k r s) (r := r) (by rw [arrivedFirst_feeder]; rfl) (by rw [arrivedFirst_mustHold, meets]) limit,
    headHeld_arrivedFirst]
  rfl

/-- Only an entry behind position 0 can be PENDING when the wait has ended. -/
theorem expired_pending : ∀ p, (entryAt (expired k r s) p).isPending = true → p ≠ 0 ∧ (entryAt s p).isPending = true := by
  intro p pending
  have before := noNewPending_raise .bindTimeout (plyNumber k) 0 { holding k r s with pipe := blanked s.pipe } p pending
  have same : entryAt { holding k r s with pipe := blanked s.pipe } p = entryAt (blankPending s) p := by
    rw [blankPending_eq]
    rfl
  rw [same, entryAt_blankPending, Bool.and_eq_true, decide_eq_true_eq] at before
  exact before

theorem expired_feeder (j : Ply) : feeder (expired k r s) j = feeder (holding k r s) j := by
  rw [feeder, expired, raise_path]
  rfl

/-- A state whose feeders have nothing left but in k's response is settled once it is taken. -/
theorem settle_take_empty {u : State} (empty : ∀ j, (feeder u j).queue = []) :
    settle (takeResponse k r u) = takeResponse k r u :=
  settle_idle fun j => headReady_empty ((takeResponse_queue ..).trans (empty j))

theorem unheld_queue (empty : ∀ j, j ≠ k → (feeder s j).queue = []) (j : Ply) : (feeder (unheld k s) j).queue = [] := by
  by_cases same : j = k
  · subst same
    exact congrArg Feeder.queue (feeder_setFeeder_same ..)
  · exact (congrArg Feeder.queue (feeder_setFeeder_other _ _ same)).trans (empty j same)

end

section
variable {k : Ply} {r : Response} {s : State}

/-- A response behind another of its feeder waits. -/
theorem settle_behind (idle : ∀ j, headReady s j = false) (some_first : (feeder s k).queue ≠ []) :
    settle (setFeeder k { feeder s k with queue := (feeder s k).queue ++ [r] } s) =
      setFeeder k { feeder s k with queue := (feeder s k).queue ++ [r] } s := by
  refine settle_idle fun j => ?_
  by_cases same : j = k
  · subst same
    have before := idle j
    obtain ⟨x, rest, queue⟩ := List.exists_cons_of_ne_nil some_first
    rw [headReady_of_head (r := x) (by rw [queue]; rfl)] at before
    rw [headReady_of_head (r := x) (by rw [feeder_setFeeder_same, queue]; rfl), feeder_setFeeder_same,
      mustHold_setFeeder (f := { feeder s j with queue := (feeder s j).queue ++ [r] }) rfl]
    exact before
  · exact (headReady_setFeeder_other (f := { feeder s k with queue := (feeder s k).queue ++ [r] }) rfl same).trans (idle j)

/-- A wait ended at once at position 0: the response is taken with the entry BLANK. -/
theorem settle_expired (empty : ∀ j, (feeder s j).queue = []) (first : headPosOf s k = some 0) :
    settle (expired k r s) = takeResponse k r (unheld k (expired k r s)) := by
  have here : feeder (expired k r s) k = holdingOf (feeder s k) r (bindLimitOf s) :=
    (expired_feeder k).trans (feeder_setFeeder_same ..)
  have others : ∀ j, j ≠ k → (feeder (expired k r s) j).queue = [] := fun j h =>
    (congrArg Feeder.queue ((expired_feeder j).trans (feeder_setFeeder_other _ _ h))).trans (empty j)
  have place : headPosOf (expired k r s) k = some 0 := by
    have ticket : (expired k r s).ticket = s.ticket := raise_ticket ..
    rw [headPosOf, ticket]
    exact first
  have calm : (entryAt (expired k r s) 0).isPending = false :=
    Bool.eq_false_iff.2 fun pending => (expired_pending 0 pending).1 rfl
  have free : mustHold (expired k r s) k r = false := by
    unfold mustHold
    rw [place]
    dsimp only
    rw [calm, Bool.and_false, Bool.false_and]
  have ready : headReady (expired k r s) k = true := by
    rw [headReady_of_head (r := r) (by rw [here]; rfl), free, Bool.not_false, Bool.or_true]
  have gone : headGone k (expired k r s) = unheld k (expired k r s) := by
    rw [headGone_eq, here]
    unfold unheld
    rw [here]
    rfl
  rw [settle_only ready fun j h => headReady_empty (others j h),
    serveHead_take (s := expired k r s) (r := r) (by rw [here]; rfl) free, gone]
  exact settle_take_empty fun j => unheld_queue others j

theorem bindTimeout_bit : FaultKind.bindTimeout.bit.getLsbD 7 = true := by decide

/-- The wait ended at once in a sound pipeline: nothing is PENDING, no response is left, and the fault is raised. -/
theorem settle_expired_calm (shape : PipelineShape s) : pendingAtZero (settle (expired k r s)) = false ∧
    (∀ j, (feeder (settle (expired k r s)) j).queue = []) ∧
    (settle (expired k r s)).report.flags.getLsbD 7 = true := by
  have calm : ∀ p, (entryAt (expired k r s) p).isPending = false := fun p =>
    Bool.eq_false_iff.2 fun pending => by
      obtain ⟨behind, before⟩ := expired_pending p pending
      have none := (behind_iff s).1 shape.behind
      obtain ⟨q, rfl⟩ := Nat.exists_eq_succ_of_ne_zero behind
      rw [entryAt_isPending, List.getD_eq_getElem?_getD, ← List.getElem?_tail] at before
      cases found : (pends s).tail[q]? with
      | none => rw [found] at before; cases before
      | some b =>
        rw [found, none b (List.mem_of_getElem? found)] at before
        cases before
  have served := served_settle (expired k r s)
  refine ⟨Bool.eq_false_iff.2 fun pending => Bool.false_ne_true ((calm 0).symm.trans (served.pending 0 pending)),
    settle_calm calm, served.flags 7 ?_⟩
  rw [expired, raise_flags, BitVec.getLsbD_or, bindTimeout_bit, Bool.or_true]

end

/-- Settles O31: a response behind another waits; a first one is held, ends its wait at once, or is taken. -/
theorem readResponseHeldOrTaken : Obligations.ReadResponseHeldOrTaken := by
  intro k r s
  refine ⟨fun held => congrArg Host.Outcome.next (if_pos held), fun works idle some_first => ?_, fun works empty => ?_,
    fun works empty others => ?_⟩
  · rw [exec_readResponse_behind works some_first]
    exact congrArg Host.Outcome.next (settle_behind (s := quiet s) idle some_first)
  · have others : ∀ j, j ≠ k → headReady (quiet s) j = false := fun j _ => headReady_empty (empty j)
    rw [exec_readResponse_first works (empty k)]
    refine ⟨fun free => ?_, fun meets limit => ?_, fun meets limit first => ?_⟩
    · rw [settle_arrivedFirst_free (s := quiet s) others free]
      exact congrArg Host.Outcome.next (settle_take_empty fun j => unheld_queue (s := quiet s) (fun j _ => empty j) j)
    · rw [settle_arrivedFirst_hold (s := quiet s) others meets limit]
    · rw [settle_arrivedFirst_expire (s := quiet s) others meets limit, settle_expired (s := quiet s) empty first]
      rfl
  · have others : ∀ j, j ≠ k → headReady (quiet s) j = false := others
    rw [exec_readResponse_first works empty]
    refine ⟨fun free => ?_, fun meets limit => ?_, fun meets limit _ shape => ?_⟩
    · rw [settle_arrivedFirst_free (s := quiet s) others free]
      exact ⟨rfl, fun idle => by rw [settle_idle idle]⟩
    · rw [settle_arrivedFirst_hold (s := quiet s) others meets limit]
    · rw [settle_arrivedFirst_expire (s := quiet s) others meets limit]
      have shape' : PipelineShape (quiet s) := shape_of_eq (s := s) rfl rfl rfl shape
      exact ⟨_, rfl, settle_expired_calm shape'⟩

end Sys2Proof.Machine
end

section
/-! PROOFS. The rendering of field tokens: the glyphs of a value (R59) and a response with one token or none
(R56 to R62, R64, R65). -/

namespace Sys2Proof.Machine
open Sys2Proof.Safety

/-! ## The glyphs of a value (R59) -/

theorem digitsFrom_length {fuel n : Nat} (small : n < 10 ^ (fuel + 1)) :
    (digitsFrom (fuel + 1) n).length = (Nat.toDigits 10 n).length := by
  induction fuel generalizing n with
  | zero =>
    have one : n < 10 := by simpa using small
    rw [digitsFrom, if_pos one, Nat.toDigits_of_lt_base one]
    rfl
  | succ fuel ih =>
    rw [digitsFrom]
    split
    next one =>
      rw [Nat.toDigits_of_lt_base one]
      rfl
    next more =>
      have rest : n / 10 < 10 ^ (fuel + 1) := Nat.div_lt_of_lt_mul (by rw [← Nat.pow_succ']; exact small)
      rw [List.length_cons, ih rest, Nat.toDigits_of_base_le (by decide) (Nat.le_of_not_lt more), List.length_append]
      rfl

theorem digits_length (v : Word) : (digits v).length = (Nat.toDigits 10 v.toNat).length :=
  digitsFrom_length (v.isLt.trans (by norm_num))

section
variable (t : Token) (m : CheckMethod) (v : Word)

/-- The W places of a value, without its check digit. -/
def placesOf : List (BitVec 16) :=
  List.replicate (t.width - (digits v).length) (if t.spaces then spaceGlyph t.base else glyph t.base 0) ++
    (digits v).reverse.map (glyph t.base)

theorem valueString_eq : valueString t m v =
    placesOf t v ++ if t.check then [glyph t.base ((checkResult m v).getD 0)] else [] := by
  simp only [valueString, placesOf, List.length_map, List.length_reverse]

theorem placesOf_length (fits : (digits v).length ≤ t.width) : (placesOf t v).length = t.width := by
  simp [placesOf]
  omega

theorem valueString_length (fits : (digits v).length ≤ t.width) : (valueString t m v).length = t.span := by
  rw [valueString_eq, List.length_append, placesOf_length t v fits, Token.span]
  split <;> rfl

theorem placesOf_get {i : Nat} (fits : (digits v).length ≤ t.width) (inside : i < t.width) :
    (placesOf t v)[i]? = some (BitVec.ofNat 16 (t.base + (if t.width - i ≤ (digits v).length
      then v.toNat / 10 ^ (t.width - 1 - i) % 10 else if t.spaces then 10 else 0))) := by
  unfold placesOf
  by_cases digit : t.width - i ≤ (digits v).length
  · have past : t.width - (digits v).length ≤ i := by omega
    have place : i - (t.width - (digits v).length) < (digits v).length := by omega
    have turned : (digits v).length - 1 - (i - (t.width - (digits v).length)) = t.width - 1 - i := by omega
    have here : t.width - 1 - i < (digits v).length := by omega
    rw [if_pos digit, List.getElem?_append_right (by simpa using past), List.length_replicate, List.getElem?_map,
      List.getElem?_reverse place, turned, List.getElem?_eq_getElem here, ← digits_getD, List.getD_eq_getElem _ _ here]
    rfl
  · rw [if_neg digit, List.getElem?_append_left (by rw [List.length_replicate]; omega), List.getElem?_replicate,
      if_pos (by omega)]
    cases t.spaces <;> rfl

end

/-- Settles O37: the string's length, its places and its check digit. -/
theorem valueGlyphsSpellNumber : Obligations.ValueGlyphsSpellNumber := by
  intro t m v i fits inside
  have length := placesOf_length t v fits
  refine ⟨valueString_length t m v fits, digits_length v, ?_, fun check d digit => ?_⟩
  · rw [valueString_eq, List.getElem?_append_left (length.symm ▸ inside), placesOf_get t v fits inside]
  · rw [valueString_eq, List.getElem?_append_right (by omega), length, Nat.sub_self, if_pos check, digit]
    rfl

/-! ## The path and the faces set apart -/

/-- A state with its path and faces replaced. -/
def withFaces (p : Path) (b : Bus) (s : State) : State := { s with path := p, bus := b }

theorem withFaces_self (s : State) : withFaces s.path s.bus s = s := rfl

theorem withFaces_withFaces (p q : Path) (b c : Bus) (s : State) : withFaces p b (withFaces q c s) = withFaces p b s := rfl

theorem raise_withFaces (p : Path) (b : Bus) (kind : FaultKind) (ply : BitVec 3) (serial : Word) (s : State) :
    raise kind ply serial (withFaces p b s) = withFaces p b (raise kind ply serial s) := by
  cases op : s.ctl.inOperation with
  | true =>
    rw [raise_inside op, raise_inside (s := withFaces p b s) op]
    rfl
  | false =>
    rw [raise_outside op, raise_outside (s := withFaces p b s) op]
    have same : actsAs (withFaces p b s) kind = actsAs s kind := rfl
    rw [same]
    cases actsAs s kind with
    | carryOn => rfl
    | hold =>
      change (if s.ctl.job = .run then _ else _) = withFaces p b (if s.ctl.job = .run then _ else _)
      split <;> rfl
    | halt =>
      change (if s.ctl.job = .run ∨ s.ctl.job = .hold ∨ s.ctl.job = .drain then _ else _) =
        withFaces p b (if s.ctl.job = .run ∨ s.ctl.job = .hold ∨ s.ctl.job = .drain then _ else _)
      split <;> rfl

theorem applyPathMark_withFaces (p : Path) (b : Bus) (k : Ply) (m : PathMark) (s : State) :
    applyPathMark k m (withFaces p b s) = withFaces p b (applyPathMark k m s) := by
  cases m with
  | completed serial attempt =>
    change (if serial = 0 then _ else _) = withFaces p b (if serial = 0 then _ else _)
    split <;> rfl
  | tokenBad serial attempt => exact raise_withFaces p b _ _ _ (markSerial serial attempt .tokenBad (some k) s)
  | broken serial attempt =>
    have marked := raise_withFaces p b .fieldBroken (plyNumber k) serial (markSerial serial attempt .fieldBroken (some k) s)
    change (if serial ≠ 0 ∧ inPipeline serial attempt s then _ else _) =
      withFaces p b (if serial ≠ 0 ∧ inPipeline serial attempt s then _ else _)
    split
    · exact marked
    · rfl

/-- The marks of a response, applied in order. -/
def marked (k : Ply) (ms : List PathMark) (s : State) : State := ms.foldl (fun s m => applyPathMark k m s) s

theorem marked_withFaces (p : Path) (b : Bus) (k : Ply) (ms : List PathMark) (s : State) :
    marked k ms (withFaces p b s) = withFaces p b (marked k ms s) := by
  induction ms generalizing s with
  | nil => rfl
  | cons m ms ih => exact (congrArg (marked k ms) (applyPathMark_withFaces p b k m s)).trans (ih _)

theorem marked_append (k : Ply) (ms ns : List PathMark) (s : State) : marked k (ms ++ ns) s = marked k ns (marked k ms s) :=
  List.foldl_append

theorem marked_faces (k : Ply) (ms : List PathMark) (s : State) :
    (marked k ms s).path = s.path ∧ (marked k ms s).bus = s.bus := applyPathMarks_faces k ms s

/-- The path with feeder k's record replaced. -/
def recordPath (k : Ply) (cont : Option Continuation) (s : State) : Path :=
  { s.path with feeders := s.path.feeders.set k { feeder s k with cont } }

/-- The faces with a response sent to feeder k. -/
def sentBus (k : Ply) (x : Response) (s : State) : Bus :=
  { s.bus with upstream := s.bus.upstream ++ [(feederId k, x)] }

/-- The record a response leaves, for a field left open at its end. -/
def leftRecord (r : Response) (o : Option OpenField) : Option Continuation :=
  o.map fun x =>
    { glyphs := x.glyphs, next := wordAddr r.addr r.words.length, serial := x.serial, attempt := x.attempt }

section
variable {k : Ply} {r : Response} {s : State}

/-- A response taken: its marks, its record and its words. -/
theorem takeResponse_eq (some_word : r.words ≠ []) {o : Option OpenField × List PathMark}
    (resumed : resume? (feeder s k).cont r.addr = o) {out : List Word × List PathMark × Option OpenField}
    (rendered : renderWords s k r.addr o.1 r.words = out) : takeResponse k r s =
      withFaces (recordPath k (leftRecord r out.2.2) s) (sentBus k { r with words := out.1 } s) (marked k (o.2 ++ out.2.1) s) := by
  unfold takeResponse
  split
  next empty => exact absurd empty some_word
  next =>
    dsimp only
    rw [resumed, rendered]
    have faces : setFeeder k { feeder s k with cont := leftRecord r out.2.2 } s =
      withFaces (recordPath k (leftRecord r out.2.2) s) s.bus s := rfl
    have applied := marked_withFaces (recordPath k (leftRecord r out.2.2) s) s.bus k (o.2 ++ out.2.1) s
    rw [← faces] at applied
    exact congrArg (sendUp (feederId k) { r with words := out.1 }) applied

theorem recordPath_same (cont : (feeder s k).cont = none) : recordPath k none s = s.path := by
  have same : ({ feeder s k with cont := none } : Feeder) = feeder s k := by rw [← cont]
  rw [recordPath, same]
  exact congrArg (fun v => { s.path with feeders := v }) (Six.set_get_self ..)

/-- The passing of a response through marks that reach no face. -/
theorem passed_marked (ms : List PathMark) :
    passed k r (marked k ms s) = withFaces s.path (sentBus k r s) (marked k ms s) := by
  obtain ⟨path, bus⟩ := marked_faces k ms s
  unfold passed sentBus withFaces
  rw [← path, bus]

/-- A response whose words are returned as memory holds them, with no record before and after. -/
theorem takeResponse_verbatim (cont : (feeder s k).cont = none) {ms : List PathMark}
    (rendered : renderWords s k r.addr none r.words = (r.words, ms, none)) : takeResponse k r s = passed k r (marked k ms s) := by
  rw [passed_marked]
  by_cases some_word : r.words = []
  · rw [some_word] at rendered
    obtain ⟨-, rfl, -⟩ : ([] : List Word) = [] ∧ [] = ms ∧ (none : Option OpenField) = none := by
      simpa [renderWords] using rendered
    unfold takeResponse
    split
    · rfl
    next _ _ full => rw [some_word] at full; cases full
  · rw [takeResponse_eq some_word (o := (none, [])) (by rw [cont]; rfl) rendered]
    dsimp only [leftRecord, Option.map_none]
    rw [recordPath_same cont]
    rfl

end

/-! ## Words in no span and words of an open field (R56, R60) -/

section
variable {s : State} {k : Ply}

theorem renderWord_none (a : Addr) (w : Word) : renderWord s k a none w = renderFresh s k a w := rfl

/-- A word that is no token of the ply's slot is returned as memory holds it. -/
theorem renderFresh_plain {a : Addr} {w : Word} (plain : ¬(w.extractLsb' 24 8 = 0xA7 ∧ InSlotOf s k a)) :
    renderFresh s k a w = (w, [], none) := by
  unfold renderFresh
  split
  next j off place =>
    rw [if_neg]
    rintro ⟨rfl, marked⟩
    exact plain ⟨(isMarked_iff w).1 marked, off, (regionOf_slot_iff ..).1 place⟩
  next => rfl

/-- A token of the ply's slot is treated. -/
theorem renderFresh_token {a : Addr} {w : Word} {off : Nat} (low : slotBase k ≤ off) (high : off < slotBase k + 0x28000)
    (here : AtOffset s a off) (mark : w.extractLsb' 24 8 = 0xA7) : renderFresh s k a w =
      match treat s k off w with
      | .unchanged none => (w, [], none)
      | .unchanged (some o) => (w, [.tokenBad o.1 o.2], none)
      | .span [] _ _ _ => (w, [], none)
      | .span (g :: rest) serial attempt bad =>
        let r := emit g rest serial attempt
        (r.1, (if bad then [PathMark.tokenBad serial attempt] else []) ++ r.2.1, r.2.2) := by
  unfold renderFresh
  rw [(regionOf_slot_iff ..).2 ⟨low, high, here⟩]
  dsimp only
  rw [if_pos ⟨rfl, (isMarked_iff w).2 mark⟩] <;> rfl

/-- Words without a token are returned as memory holds them. -/
theorem renderWords_plain (a : Addr) (ws : List Word)
    (plain : ∀ j w, ws[j]? = some w → ¬(w.extractLsb' 24 8 = 0xA7 ∧ InSlotOf s k (wordAddr a j))) :
    renderWords s k a none ws = (ws, [], none) := by
  induction ws generalizing a with
  | nil => rfl
  | cons w ws ih =>
    have first := renderFresh_plain (by simpa [wordAddr_zero] using plain 0 w rfl)
    rw [renderWords, renderWord_none, first]
    dsimp only
    rw [ih (a + 4) fun j v here => by
      rw [show a + 4 = a + 4#28 from rfl, wordAddr_succ]
      exact plain (j + 1) v here]
    rfl

/-- The words of an open field: its glyphs, its completion where they all fit, and what it leaves open. -/
theorem renderWords_open (a : Addr) (glyphs : List (BitVec 16)) (serial : Word) (attempt : BitVec 2) (some_glyph : glyphs ≠ [])
    (ws : List Word)
    (plain : ∀ j w, glyphs.length ≤ j → ws[j]? = some w → ¬(w.extractLsb' 24 8 = 0xA7 ∧ InSlotOf s k (wordAddr a j))) :
    renderWords s k a (some { glyphs, serial, attempt }) ws =
      ((glyphs.take ws.length).map (·.setWidth 32) ++ ws.drop glyphs.length,
        if glyphs.length ≤ ws.length then [.completed serial attempt] else [],
        if ws.length < glyphs.length then some { glyphs := glyphs.drop ws.length, serial, attempt } else none) := by
  induction glyphs generalizing a ws with
  | nil => exact absurd rfl some_glyph
  | cons g rest ih =>
    cases ws with
    | nil => simp [renderWords]
    | cons w ws =>
      have next : ∀ j, wordAddr (a + 4) j = wordAddr a (j + 1) := wordAddr_succ a
      rw [renderWords, renderWord]
      cases rest with
      | nil =>
        have after := renderWords_plain (s := s) (k := k) (a + 4) ws fun j v here => by
          rw [next]
          exact plain (j + 1) v (by simp) here
        simp only [emit, after]
        simp
      | cons g' rest =>
        have after := ih (a + 4) (by simp) ws fun j v late here => by
          rw [next]
          exact plain (j + 1) v (by simpa using late) here
        simp only [emit, after]
        simp

end

/-! ## A response with one token (R56 to R62) -/

/-- The completion mark of a field of n words that has m of them in its response. -/
def completion (serial : Word) (attempt : BitVec 2) (n m : Nat) : List PathMark :=
  if n ≤ m then [.completed serial attempt] else []

/-- The mark of a token rendered as overflow. -/
def badMark (bad : Bool) (serial : Word) (attempt : BitVec 2) : List PathMark :=
  if bad then [.tokenBad serial attempt] else []

/-- The mark of a token returned unchanged. -/
def ownerMark : Option (Word × BitVec 2) → List PathMark
  | some o => [.tokenBad o.1 o.2]
  | none => []

section
variable {k : Ply} {r : Response} {s : State}

/-- A field's words, from its first place on, taken with what surrounds it. -/
theorem returned_marked (ms : List PathMark) (b : Nat) (glyphs : List (BitVec 16)) (serial : Word) (attempt : BitVec 2) :
    returned k r b glyphs serial attempt (marked k ms s) =
      withFaces (recordPath k (leftRecord r (if r.words.length - b < glyphs.length
          then some { glyphs := glyphs.drop (r.words.length - b), serial, attempt } else none)) s)
        (sentBus k { r with words := r.words.take b ++ ((glyphs.take (r.words.length - b)).map (·.setWidth 32) ++
          r.words.drop (b + glyphs.length)) } s) (marked k ms s) := by
  have kept : keptRecord glyphs (r.words.length - b) (wordAddr r.addr r.words.length) serial attempt =
      leftRecord r (if r.words.length - b < glyphs.length
        then some { glyphs := glyphs.drop (r.words.length - b), serial, attempt } else none) := by
    unfold keptRecord
    split <;> rfl
  obtain ⟨path, bus⟩ := marked_faces k ms s
  unfold returned
  rw [kept, List.append_assoc, path, bus, feeder, path]
  rfl

theorem plain_of_not_marked {j : Nat} (none : ¬MarkedAt s k r j) :
    ∀ w, r.words[j]? = some w → ¬(w.extractLsb' 24 8 = 0xA7 ∧ InSlotOf s k (wordAddr r.addr j)) :=
  fun w here both => none ⟨w, here, both.1, both.2⟩

theorem wordAddr_add (a : Addr) (i j : Nat) : wordAddr (wordAddr a i) j = wordAddr a (i + j) := by
  unfold wordAddr
  rw [BitVec.add_assoc, ← BitVec.ofNat_add, Nat.mul_add]

/-- The words before a token, and the rest from it on. -/
theorem renderWords_from {b : Nat} (inside : b < r.words.length) (before : ∀ j < b, ¬MarkedAt s k r j) :
    renderWords s k r.addr none r.words =
      (r.words.take b ++ (renderWords s k (wordAddr r.addr b) none (r.words.drop b)).1,
        (renderWords s k (wordAddr r.addr b) none (r.words.drop b)).2.1,
        (renderWords s k (wordAddr r.addr b) none (r.words.drop b)).2.2) := by
  have plain := renderWords_plain (s := s) (k := k) r.addr (r.words.take b) fun j w here => by
    have few : j < b := by
      have := (List.getElem?_eq_some_iff.1 here).1
      rw [List.length_take] at this
      omega
    rw [List.getElem?_take_of_lt few] at here
    exact plain_of_not_marked (before j few) w here
  have whole := renderWords_append s k r.addr none (r.words.take b) (r.words.drop b)
  rw [List.take_append_drop, plain, List.length_take, Nat.min_eq_left inside.le] at whole
  exact whole

/-- A token rendered as a field: its words are those of a field open from there on, its bad mark before them. -/
theorem renderWords_token {a : Addr} {w : Word} {ws : List Word} {off : Nat} {glyphs : List (BitVec 16)} {serial : Word}
    {attempt : BitVec 2} {bad : Bool} (low : slotBase k ≤ off) (high : off < slotBase k + 0x28000) (here : AtOffset s a off)
    (mark : w.extractLsb' 24 8 = 0xA7) (treated : treat s k off w = .span glyphs serial attempt bad) (some_glyph : glyphs ≠ []) :
    renderWords s k a none (w :: ws) =
      ((renderWords s k a (some { glyphs, serial, attempt }) (w :: ws)).1,
        badMark bad serial attempt ++ (renderWords s k a (some { glyphs, serial, attempt }) (w :: ws)).2.1,
        (renderWords s k a (some { glyphs, serial, attempt }) (w :: ws)).2.2) := by
  cases glyphs with
  | nil => exact absurd rfl some_glyph
  | cons g rest =>
    have fresh := renderFresh_token low high here mark
    rw [treated] at fresh
    rw [renderWords, renderWord_none, fresh, renderWords, renderWord]
    simp only [badMark, List.append_assoc]

/-- A response whose one token is rendered as a field. -/
theorem takeResponse_field {b off : Nat} {w : Word} {glyphs : List (BitVec 16)} {serial : Word} {attempt : BitVec 2} {bad : Bool}
    (cont : (feeder s k).cont = none) (here : r.words[b]? = some w) (one : OneToken s k r b off glyphs.length)
    (treated : treat s k off w = .span glyphs serial attempt bad) (some_glyph : glyphs ≠ []) :
    takeResponse k r s = returned k r b glyphs serial attempt (marked k (badMark bad serial attempt ++
      completion serial attempt glyphs.length (r.words.length - b)) s) := by
  obtain ⟨at_off, ⟨w', here', mark, -⟩, low, high, others⟩ := one
  obtain ⟨inside, word⟩ := List.getElem?_eq_some_iff.1 here
  have same : w' = w := Option.some.inj (here'.symm.trans here)
  rw [same] at mark
  have rest : r.words.drop b = w :: r.words.drop (b + 1) := by rw [List.drop_eq_getElem_cons inside, word]
  have after := renderWords_open (s := s) (k := k) (wordAddr r.addr b) glyphs serial attempt some_glyph (r.words.drop b)
    fun j v late found => by
      rw [List.getElem?_drop] at found
      rw [wordAddr_add]
      exact plain_of_not_marked (others (b + j) (.inr (by omega))) v found
  have token := renderWords_token (ws := r.words.drop (b + 1)) low high at_off mark treated some_glyph
  rw [← rest, after] at token
  have rendered := renderWords_from inside fun j few => others j (.inl few)
  rw [token, List.length_drop, List.drop_drop] at rendered
  have some_word : r.words ≠ [] := fun empty => by rw [empty] at inside; simp at inside
  rw [takeResponse_eq some_word (o := (none, [])) (by rw [cont]; rfl) rendered, returned_marked]
  rfl

/-- A response whose one token is returned unchanged. -/
theorem takeResponse_unchanged {b off : Nat} {w : Word} {owner : Option (Word × BitVec 2)}
    (cont : (feeder s k).cont = none) (here : r.words[b]? = some w) (one : OneToken s k r b off 1)
    (treated : treat s k off w = .unchanged owner) :
    takeResponse k r s = passed k r (marked k (ownerMark owner) s) := by
  obtain ⟨at_off, ⟨w', here', mark, -⟩, low, high, others⟩ := one
  obtain ⟨inside, word⟩ := List.getElem?_eq_some_iff.1 here
  have same : w' = w := Option.some.inj (here'.symm.trans here)
  rw [same] at mark
  have rest : r.words.drop b = w :: r.words.drop (b + 1) := by rw [List.drop_eq_getElem_cons inside, word]
  have after := renderWords_plain (s := s) (k := k) (wordAddr r.addr b + 4) (r.words.drop (b + 1)) fun j v found => by
    rw [List.getElem?_drop] at found
    rw [show wordAddr r.addr b + 4 = wordAddr r.addr b + 4#28 from rfl, wordAddr_succ, wordAddr_add, ← Nat.add_assoc,
      Nat.add_right_comm]
    exact plain_of_not_marked (others (b + 1 + j) (.inr (by omega))) v found
  have fresh : renderFresh s k (wordAddr r.addr b) w = (w, ownerMark owner, none) := by
    rw [renderFresh_token low high at_off mark, treated]
    cases owner <;> rfl
  have token : renderWords s k (wordAddr r.addr b) none (r.words.drop b) = (r.words.drop b, ownerMark owner, none) := by
    rw [rest, renderWords, renderWord_none, fresh]
    dsimp only
    rw [after, List.append_nil]
  refine takeResponse_verbatim cont ((renderWords_from inside fun j few => others j (.inl few)).trans ?_)
  rw [token, List.take_append_drop]

/-- A response without a token. -/
theorem takeResponse_plain (cont : (feeder s k).cont = none) (none : ∀ j, ¬MarkedAt s k r j) :
    takeResponse k r s = passed k r s :=
  takeResponse_verbatim (ms := []) cont (renderWords_plain _ _ fun j => plain_of_not_marked (none j))

end

/-! ## The treatment of a token (R57) -/

section
variable {s : State} {k : Ply} {off : Nat} {w : Word}

theorem treat_idle (h : s.ctl.job.running = false ∨ headPosOf s k = none) : treat s k off w =
    if (tokenOf w).wellFormed k off then .span (spaceString (tokenOf w)) 0 0 false else .unchanged none := by
  unfold treat
  dsimp only
  split
  next t p _ place =>
    rcases h with h | h
    · rw [h, if_neg Bool.false_ne_true]
    · rw [h] at place
      cases place
  next => rfl

theorem treat_running {t : Ticket} {p : Nat} (running : s.ctl.job.running = true) (active : s.ticket.active = some t)
    (place : headPosOf s k = some p) :
    treat s k off w = treatAgainst t (tokenOf w) ((tokenOf w).wellFormed k off) (entryAt s p) := by
  unfold treat
  rw [active, place]
  exact if_pos running

/-- The serial and attempt that a refused token marks. -/
def ownerOf : Entry → Option (Word × BitVec 2)
  | .set x => some (x.serial, x.attempt)
  | _ => none

theorem treatAgainst_refused {t : Ticket} {tok : Token} (e : Entry) (refused : TokenRefused t k tok off) :
    treatAgainst t tok (tok.wellFormed k off) e = .unchanged (ownerOf e) := by
  have test : (!tok.wellFormed k off || !(t.streams.get tok.stream).active ||
      (tok.check && (t.streams.get tok.stream).check == .none)) = true := by
    rcases refused with h | h | ⟨h, g⟩
    · simp [h]
    · simp [h]
    · simp [h, g]
  unfold treatAgainst
  dsimp only
  rw [if_pos test]
  cases e <;> rfl

theorem treatAgainst_rendered {t : Ticket} {tok : Token} (e : Entry) (fine : ¬TokenRefused t k tok off) :
    treatAgainst t tok (tok.wellFormed k off) e = match e with
      | .blank => .span (spaceString tok) 0 0 false
      | .pending .. => .span (spaceString tok) 0 0 false
      | .set x =>
        match x.values.get tok.stream with
        | none => .unchanged (ownerOf e)
        | some v =>
          if (digits v).length ≤ tok.width then .span (valueString tok (t.streams.get tok.stream).check v) x.serial x.attempt false
          else .span (overflowString tok) x.serial x.attempt true := by
  have test : (!tok.wellFormed k off || !(t.streams.get tok.stream).active ||
      (tok.check && (t.streams.get tok.stream).check == .none)) ≠ true := by
    intro h
    simp only [Bool.or_eq_true, Bool.not_eq_true', Bool.and_eq_true, beq_iff_eq] at h
    rcases h with (h | h) | h
    · exact fine (.inl h)
    · exact fine (.inr (.inl h))
    · exact fine (.inr (.inr h))
  unfold treatAgainst
  dsimp only
  rw [if_neg test]
  cases e <;> rfl

theorem span_pos {tok : Token} (fine : tok.wellFormed k off = true) : 0 < tok.span := by
  have width := (of_decide_eq_true fine).1
  unfold Token.span
  omega

end

theorem spaceString_length (tok : Token) : (spaceString tok).length = tok.span := List.length_replicate

theorem overflowString_length (tok : Token) : (overflowString tok).length = tok.span := List.length_replicate

theorem completed_spaces (k : Ply) (attempt : BitVec 2) (n m : Nat) (s : State) :
    marked k (completion 0 attempt n m) s = s := by
  unfold completion
  split <;> rfl

/-- Settles O35: a field of spaces, a token returned unchanged, and a response without one. -/
theorem spacesFieldRendered : Obligations.SpacesFieldRendered := by
  intro k r s b off w cont here
  refine ⟨fun one fine shows => ?_, fun one refused => ?_, takeResponse_plain cont⟩
  · have treated : treat s k off w = .span (spaceString (tokenOf w)) 0 0 false := by
      rcases shows with h | h | ⟨t, p, active, place, blank, rendered⟩
      · rw [treat_idle (.inl h), if_pos fine]
      · rw [treat_idle (.inr h), if_pos fine]
      · by_cases running : s.ctl.job.running = true
        · rw [treat_running running active place, treatAgainst_rendered _ rendered, blank]
        · rw [treat_idle (.inl (Bool.eq_false_iff.2 running)), if_pos fine]
    have taken := takeResponse_field cont here (by rw [spaceString_length]; exact one) treated
      (List.ne_nil_of_length_pos (by rw [spaceString_length]; exact span_pos fine))
    rw [taken, badMark, if_neg Bool.false_ne_true, List.nil_append, completed_spaces]
  · have treated : treat s k off w = .unchanged none := by
      rcases refused with ⟨idle, bad⟩ | ⟨running, t, p, active, place, blank, bad⟩
      · rw [treat_idle idle, bad, if_neg Bool.false_ne_true]
      · rw [treat_running running active place, blank, treatAgainst_refused _ bad]
        rfl
    exact takeResponse_unchanged cont here one treated

end Sys2Proof.Machine
end

section
/-! PROOFS. A token against a SET entry, a field continued or abandoned, and a response in parts (R57, R59 to R65). -/

namespace Sys2Proof.Machine
open Sys2Proof.Safety

/-! ## The marks of a response (R61, R62, R65) -/

theorem countField_eq {k : Ply} {serial : Word} {attempt : BitVec 2} {s : State} (some_set : serial ≠ 0) :
    marked k [.completed serial attempt] s = countField k serial attempt s := by
  have counted : ∀ x : BitVec 4, satSucc x = if x = 15 then 15 else x + 1 := by decide
  have same : (fun e => match e with
      | .set e => if e.serial == serial && e.attempt == attempt then
          Entry.set { e with fields := e.fields.set k (satSucc (e.fields.get k)) } else .set e
      | e => e) = fieldDone k serial attempt := by
    funext e
    cases e with
    | blank | pending => rfl
    | set e =>
      dsimp only [fieldDone]
      rw [counted]
      exact if_congr (by simp) rfl rfl
  refine (if_neg some_set).trans ?_
  unfold changeSet countField
  rw [← same]
  rfl

theorem marked_completion {k : Ply} {serial : Word} {attempt : BitVec 2} {n m : Nat} {s : State} (some_set : serial ≠ 0)
    (whole : n ≤ m) : marked k (completion serial attempt n m) s = countField k serial attempt s := by
  rw [completion, if_pos whole]
  exact countField_eq some_set

theorem completion_none {serial : Word} {attempt : BitVec 2} {n m : Nat} (part : m < n) : completion serial attempt n m = [] :=
  if_neg (Nat.not_le.2 part)

/-- A token of a SET entry rendered as a field, by whether its words are all there. -/
theorem takeResponse_value {k : Ply} {r : Response} {s : State} {b off : Nat} {w : Word} {glyphs : List (BitVec 16)}
    {serial : Word} {attempt : BitVec 2} {bad : Bool} {n : Nat} (cont : (feeder s k).cont = none)
    (here : r.words[b]? = some w) (length : glyphs.length = n) (long : 0 < n) (one : OneToken s k r b off n)
    (treated : treat s k off w = .span glyphs serial attempt bad) (some_set : serial ≠ 0) :
    (r.words.length < b + n → takeResponse k r s =
      returned k r b glyphs serial attempt (marked k (badMark bad serial attempt) s)) ∧
    (b + n ≤ r.words.length → takeResponse k r s = returned k r b glyphs serial attempt
      (countField k serial attempt (marked k (badMark bad serial attempt) s))) := by
  have taken := takeResponse_field cont here (length.symm ▸ one) treated (List.ne_nil_of_length_pos (length.symm ▸ long))
  have inside := (List.getElem?_eq_some_iff.1 here).1
  rw [length, marked_append] at taken
  refine ⟨fun part => ?_, fun whole => ?_⟩
  · rw [taken, completion_none (by omega)]
    rfl
  · rw [taken, marked_completion some_set (by omega)]

theorem valueTokenRendered (k : Ply) (r : Response) (s : State) (b off p : Nat) (w : Word) (t : Ticket) (e : SetEntry)
    (cont : (feeder s k).cont = none) (here : r.words[b]? = some w) (running : s.ctl.job.running = true)
    (active : s.ticket.active = some t) (place : headPosOf s k = some p) (entry : entryAt s p = .set e) :
    (OneToken s k r b off 1 → TokenRefused t k (tokenOf w) off →
      takeResponse k r s = passed k r (tokenBad k e s)) ∧
    (OneToken s k r b off (tokenOf w).span → ¬TokenRefused t k (tokenOf w) off → e.serial ≠ 0 →
      ∀ v, e.values.get (tokenOf w).stream = some v →
      ((digits v).length ≤ (tokenOf w).width →
        (r.words.length < b + (tokenOf w).span → takeResponse k r s =
          returned k r b (valueString (tokenOf w) (t.streams.get (tokenOf w).stream).check v) e.serial e.attempt s) ∧
        (b + (tokenOf w).span ≤ r.words.length → takeResponse k r s =
          returned k r b (valueString (tokenOf w) (t.streams.get (tokenOf w).stream).check v) e.serial e.attempt
            (countField k e.serial e.attempt s))) ∧
      ((tokenOf w).width < (digits v).length →
        (r.words.length < b + (tokenOf w).span → takeResponse k r s =
          returned k r b (overflowString (tokenOf w)) e.serial e.attempt (tokenBad k e s)) ∧
        (b + (tokenOf w).span ≤ r.words.length → takeResponse k r s =
          returned k r b (overflowString (tokenOf w)) e.serial e.attempt
            (countField k e.serial e.attempt (tokenBad k e s))))) := by
  refine ⟨fun one refused => ?_, fun one fine some_set v value => ?_⟩
  · refine takeResponse_unchanged (owner := some (e.serial, e.attempt)) cont here one ?_
    rw [treat_running running active place, entry, treatAgainst_refused _ refused]
    rfl
  · have formed : (tokenOf w).wellFormed k off = true := Bool.not_eq_false _ ▸ fun bad => fine (.inl bad)
    have treated : treat s k off w = if (digits v).length ≤ (tokenOf w).width
        then .span (valueString (tokenOf w) (t.streams.get (tokenOf w).stream).check v) e.serial e.attempt false
        else .span (overflowString (tokenOf w)) e.serial e.attempt true := by
      rw [treat_running running active place, entry, treatAgainst_rendered _ fine]
      dsimp only
      rw [value]
    refine ⟨fun fits => ?_, fun overflows => ?_⟩
    · rw [if_pos fits] at treated
      exact takeResponse_value cont here (valueString_length _ _ _ fits) (span_pos formed) one treated some_set
    · rw [if_neg (Nat.not_le.2 overflows)] at treated
      exact takeResponse_value cont here (overflowString_length _) (span_pos formed) one treated some_set

/-! ## A field continued (R64) or abandoned (R65) -/

section
variable {k : Ply} {r : Response} {s : State} {c : Continuation}

theorem takeResponse_continued (record : (feeder s k).cont = some c) (some_word : r.words ≠ []) (some_glyph : c.glyphs ≠ [])
    (next : c.next = r.addr) (plain : ∀ j, c.glyphs.length ≤ j → ¬MarkedAt s k r j) : takeResponse k r s =
      returned k r 0 c.glyphs c.serial c.attempt (marked k (completion c.serial c.attempt c.glyphs.length r.words.length) s) := by
  have resumed : resume? (feeder s k).cont r.addr =
      (some { glyphs := c.glyphs, serial := c.serial, attempt := c.attempt }, []) := by
    rw [record]
    exact if_pos next
  have rendered := renderWords_open (s := s) (k := k) r.addr c.glyphs c.serial c.attempt some_glyph r.words
    fun j w late => plain_of_not_marked (plain j late) w
  rw [takeResponse_eq some_word resumed rendered, returned_marked, Nat.zero_add]
  rfl

theorem renderWords_congr {t : State} (treats : ∀ off w, treat t k off w = treat s k off w)
    (wbase : t.path.wbase = s.path.wbase) (a : Addr) (o : Option OpenField) (ws : List Word) :
    renderWords t k a o ws = renderWords s k a o ws := by
  have fresh : ∀ a w, renderFresh t k a w = renderFresh s k a w := fun a w => by
    unfold renderFresh
    rw [wbase]
    simp only [treats]
  have word : ∀ a o w, renderWord t k a o w = renderWord s k a o w := fun a o w => by
    unfold renderWord
    simp only [fresh]
  induction ws generalizing a o with
  | nil => rfl
  | cons w ws ih => rw [renderWords, renderWords, word, ih]

theorem resume?_abandoned (record : (feeder s k).cont = some c) (next : c.next ≠ r.addr) :
    resume? (feeder s k).cont r.addr = (none, [.broken c.serial c.attempt]) := by
  rw [record]
  exact if_neg next

theorem withoutRecord_eq (k : Ply) (s : State) : withoutRecord k s = withFaces (recordPath k none s) s.bus s := rfl

theorem recordPath_twice (c c' : Option Continuation) (b : Bus) (v : State) :
    recordPath k c (withFaces (recordPath k c' s) b v) = recordPath k c s := by
  have same : feeder (withFaces (recordPath k c' s) b v) k = { feeder s k with cont := c' } := Six.get_set_same ..
  have twice : ∀ f g : Feeder, (s.path.feeders.set k f).set k g = s.path.feeders.set k g := fun f g => by fin_cases k <;> rfl
  unfold recordPath
  unfold recordPath at same
  rw [same]
  exact congrArg (fun v => { s.path with feeders := v }) (twice ..)

/-- An abandoned field's response: the words and the record are as if there were no record. -/
theorem takeResponse_abandoned (record : (feeder s k).cont = some c) (some_word : r.words ≠ []) (next : c.next ≠ r.addr) :
    (takeResponse k r s).bus = (takeResponse k r (withoutRecord k s)).bus ∧
    (takeResponse k r s).path = (takeResponse k r (withoutRecord k s)).path := by
  have cont : (feeder (withoutRecord k s) k).cont = none := congrArg Feeder.cont (feeder_setFeeder_same ..)
  have same : renderWords (withoutRecord k s) k r.addr none r.words = renderWords s k r.addr none r.words :=
    renderWords_congr (s := s) (t := withoutRecord k s) (fun _ _ => rfl) rfl ..
  rw [takeResponse_eq some_word (resume?_abandoned record next) rfl,
    takeResponse_eq some_word (o := (none, [])) (by rw [cont]; rfl) same]
  exact ⟨rfl, (recordPath_twice ..).symm⟩

/-- The same without a token. -/
theorem takeResponse_abandoned_plain (record : (feeder s k).cont = some c) (some_word : r.words ≠ []) (next : c.next ≠ r.addr)
    (plain : ∀ j, ¬MarkedAt s k r j) :
    takeResponse k r s = passed k r (applyPathMark k (.broken c.serial c.attempt) (withoutRecord k s)) := by
  rw [takeResponse_eq some_word (resume?_abandoned record next) (renderWords_plain _ _ fun j => plain_of_not_marked (plain j)),
    withoutRecord_eq, applyPathMark_withFaces]
  rfl

theorem inPipeline_iff (serial : Word) (attempt : BitVec 2) (s : State) : inPipeline serial attempt s = true ↔
    ∃ e, Entry.set e ∈ s.pipe.entries ∧ e.serial = serial ∧ e.attempt = attempt := by
  unfold inPipeline
  rw [List.any_eq_true]
  constructor
  · rintro ⟨x, mem, is_set⟩
    cases x with
    | blank | pending => cases is_set
    | set e => exact ⟨e, mem, by simpa [Entry.isSet] using is_set⟩
  · rintro ⟨e, mem, is_set⟩
    exact ⟨.set e, mem, by simpa [Entry.isSet] using is_set⟩

end

/-! ## A response in parts (R56, R60, R64) -/

/-- What rendering reads of an entry: a set's serial, attempt and values. -/
def rendersOf : Entry → Option (Word × BitVec 2 × Values)
  | .set e => some (e.serial, e.attempt, e.values)
  | _ => none

/-- What rendering reads of a state beside the path. -/
structure SameRender (s t : State) : Prop where
  ticket : t.ticket = s.ticket
  running : t.ctl.job.running = s.ctl.job.running
  entries : t.pipe.entries.map rendersOf = s.pipe.entries.map rendersOf

theorem SameRender.refl (s : State) : SameRender s s := ⟨rfl, rfl, rfl⟩

theorem SameRender.after {s t u : State} (g : SameRender t u) (h : SameRender s t) : SameRender s u :=
  ⟨g.ticket.trans h.ticket, g.running.trans h.running, g.entries.trans h.entries⟩

theorem blanked_renders (p : Pipeline) : (blanked p).entries.map rendersOf = p.entries.map rendersOf := by
  unfold blanked
  split
  next st cs ps es h => rw [h]; rfl
  next => rfl

theorem sameRender_raise (kind : FaultKind) (ply : BitVec 3) (serial : Word) (s : State) :
    SameRender s (raise kind ply serial s) := by
  refine ⟨raise_ticket .., ?_, ?_⟩
  · cases op : s.ctl.inOperation with
    | true => rw [raise_inside op]
    | false =>
      rw [raise_outside op]
      unfold acted
      split
      · rfl
      · split
        next run => rw [show s.ctl.job = .run from run]; rfl
        next => rfl
      · split
        next job => rcases job with h | h | h <;> rw [show s.ctl.job = _ from h] <;> rfl
        next => rfl
  · cases op : s.ctl.inOperation with
    | true => rw [raise_inside op]
    | false =>
      rw [raise_outside op]
      unfold acted
      split
      · rfl
      · split
        · exact blanked_renders s.pipe
        · rfl
      · split
        · refine Eq.trans ?_ (blanked_renders s.pipe)
          refine (List.map_map ..).trans (List.map_congr_left fun e _ => ?_)
          cases e <;> rfl
        · rfl

theorem sameRender_changeSet (n : Word) (a : BitVec 2) {f : SetEntry → SetEntry} (s : State)
    (keeps : ∀ e, rendersOf (.set (f e)) = rendersOf (.set e)) : SameRender s (changeSet n a f s) := by
  refine ⟨rfl, rfl, (List.map_map ..).trans (List.map_congr_left fun e _ => ?_)⟩
  cases e with
  | blank | pending => rfl
  | set e =>
    dsimp only [Function.comp]
    split
    · exact keeps e
    · rfl

theorem sameRender_marked (k : Ply) (ms : List PathMark) (s : State) : SameRender s (marked k ms s) := by
  have one : ∀ m s, SameRender s (applyPathMark k m s) := fun m s => by
    unfold applyPathMark
    split
    · unfold completeField
      split
      · exact .refl s
      · exact sameRender_changeSet _ _ s fun _ => rfl
    · exact (sameRender_raise ..).after (sameRender_changeSet _ _ s fun _ => rfl)
    · split
      · exact (sameRender_raise ..).after (sameRender_changeSet _ _ s fun _ => rfl)
      · exact .refl s
  induction ms generalizing s with
  | nil => exact .refl s
  | cons m ms ih => exact (ih _).after (one m s)

theorem treatAgainst_congr {t : Ticket} {tok : Token} {wf : Bool} {e f : Entry} (h : rendersOf f = rendersOf e) :
    treatAgainst t tok wf f = treatAgainst t tok wf e := by
  cases e with
  | set x =>
    cases f with
    | set y =>
      injection h with h
      obtain ⟨serial, h⟩ := Prod.mk.inj h
      obtain ⟨attempt, values⟩ := Prod.mk.inj h
      unfold treatAgainst
      dsimp only
      rw [serial, attempt, values]
    | blank | pending => cases h
  | blank | pending =>
    cases f with
    | set y => cases h
    | blank | pending => rfl

theorem SameRender.treat {s t : State} (h : SameRender s t) (k : Ply) (off : Nat) (w : Word) :
    treat t k off w = treat s k off w := by
  have entry : ∀ p, rendersOf (entryAt t p) = rendersOf (entryAt s p) := fun p => by
    have reads : ∀ u : State, rendersOf (entryAt u p) = (u.pipe.entries.map rendersOf).getD p none := fun u => by
      rw [entryAt, List.getD_eq_getElem?_getD, List.getD_eq_getElem?_getD, List.getElem?_map]
      cases u.pipe.entries[p]? <;> rfl
    rw [reads, reads, h.entries]
  have head : headPosOf t k = headPosOf s k := by rw [headPosOf, h.ticket] <;> rfl
  unfold Machine.treat
  dsimp only
  rw [h.ticket, head, h.running]
  cases s.ticket.active with
  | none => rfl
  | some tk =>
    cases headPosOf s k with
    | none => rfl
    | some p =>
      dsimp only
      rw [treatAgainst_congr (entry p)]

section
variable {k : Ply} {r : Response} {s : State}

theorem resume?_left (r : Response) (o : Option OpenField) : resume? (leftRecord r o) (wordAddr r.addr r.words.length) = (o, []) := by
  cases o with
  | none => rfl
  | some x => exact if_pos rfl

/-- A response cut between two words: the second part is taken where the first has stopped. -/
theorem takeResponse_parts {ws vs : List Word} (whole : r.words = ws ++ vs) (first : ws ≠ []) (second : vs ≠ []) :
    ∃ (xs ys : List Word) (u1 u2 : State), xs.length = ws.length ∧ ys.length = vs.length ∧
      u1 = takeResponse k { r with words := ws } s ∧
      u1.bus = (passed k { r with words := xs } s).bus ∧
      u2 = takeResponse k { r with addr := wordAddr r.addr ws.length, words := vs } u1 ∧
      u2.bus = (passed k { r with addr := wordAddr r.addr ws.length, words := ys } u1).bus ∧
      takeResponse k r s = { u2 with bus := (passed k { r with words := xs ++ ys } s).bus } := by
  obtain ⟨o, resumed⟩ : ∃ o, resume? (feeder s k).cont r.addr = o := ⟨_, rfl⟩
  obtain ⟨out1, rendered1⟩ : ∃ out, renderWords s k r.addr o.1 ws = out := ⟨_, rfl⟩
  obtain ⟨out2, rendered2⟩ : ∃ out, renderWords s k (wordAddr r.addr ws.length) out1.2.2 vs = out := ⟨_, rfl⟩
  have taken1 := takeResponse_eq (k := k) (s := s) (r := { r with words := ws }) first resumed rendered1
  obtain ⟨u1, at_u1⟩ : ∃ u, u = takeResponse k { r with words := ws } s := ⟨_, rfl⟩
  have here1 : u1 = _ := at_u1.trans taken1
  have record : (feeder u1 k).cont = leftRecord { r with words := ws } out1.2.2 := by
    rw [here1]
    exact congrArg Feeder.cont (Six.get_set_same ..)
  have treats : ∀ off w, treat u1 k off w = treat s k off w := fun off w => by
    rw [here1]
    exact (sameRender_marked k _ s).treat k off w
  have rendered : renderWords u1 k (wordAddr r.addr ws.length) out1.2.2 vs = out2 := by
    rw [renderWords_congr treats (by rw [here1]; rfl), rendered2]
  have taken2 := takeResponse_eq (k := k) (s := u1) (r := { r with addr := wordAddr r.addr ws.length, words := vs })
    second (o := (out1.2.2, [])) (record.symm ▸ resume?_left { r with words := ws } out1.2.2) rendered
  have some_word : r.words ≠ [] := by rw [whole]; simp [first]
  have parts : renderWords s k r.addr o.1 r.words = (out1.1 ++ out2.1, out1.2.1 ++ out2.2.1, out2.2.2) := by
    rw [whole, renderWords_append, rendered1, rendered2]
  have takes := takeResponse_eq some_word resumed parts
  refine ⟨out1.1, out2.1, u1, _, rendered1 ▸ renderWords_length .., rendered2 ▸ renderWords_length .., at_u1,
    by rw [here1]; rfl, rfl, by rw [taken2]; rfl, ?_⟩
  have left : leftRecord { r with addr := wordAddr r.addr ws.length, words := vs } out2.2.2 = leftRecord r out2.2.2 := by
    unfold leftRecord
    dsimp only
    rw [wordAddr_add, whole, List.length_append]
  have path : recordPath k (leftRecord r out2.2.2) u1 = recordPath k (leftRecord r out2.2.2) s := by
    rw [here1, recordPath_twice]
  have marks : marked k out2.2.1 u1 = withFaces u1.path u1.bus (marked k (o.2 ++ (out1.2.1 ++ out2.2.1)) s) := by
    rw [here1, marked_withFaces, ← List.append_assoc, marked_append k (o.2 ++ out1.2.1)]
    rfl
  rw [taken2, takes, left, path, List.nil_append, marks]
  rfl

end

theorem takeResponse_empty {k : Ply} {r : Response} {s : State} (empty : r.words = []) :
    takeResponse k r s = passed k r s := by
  unfold takeResponse
  split
  next => rfl
  next _ _ full => rw [empty] at full; cases full

/-- Settles O36: a token against a SET entry, a field continued or abandoned, a write's response, and a response in parts. -/
theorem valueFieldRendered : Obligations.ValueFieldRendered := by
  refine ⟨valueTokenRendered, fun k r s c record some_word some_glyph => ⟨fun next plain => ?_, fun next => ?_⟩,
    fun k r s empty => takeResponse_empty empty, fun k r s ws vs whole first second => takeResponse_parts whole first second⟩
  · have taken := takeResponse_continued record some_word some_glyph next plain
    refine ⟨fun silent => ?_, fun some_set whole => ?_⟩
    · rw [taken]
      rcases silent with h | h
      · rw [h, completed_spaces]
      · rw [completion_none h]
        rfl
    · rw [taken, marked_completion some_set whole]
  · obtain ⟨bus, path⟩ := takeResponse_abandoned record some_word next
    refine ⟨bus, path, fun plain => ?_⟩
    have taken := takeResponse_abandoned_plain record some_word next plain
    refine ⟨fun some_set there => ?_, fun gone => ?_⟩
    · rw [taken]
      exact congrArg (passed k r) (if_pos ⟨some_set, (inPipeline_iff ..).2 there⟩)
    · rw [taken]
      refine congrArg (passed k r) (if_neg ?_)
      rintro ⟨some_set, there⟩
      obtain ⟨e, mem, same⟩ := (inPipeline_iff c.serial c.attempt (withoutRecord k s)).1 there
      rcases gone with h | h
      · exact some_set h
      · exact h e mem same

end Sys2Proof.Machine
end

section
/-! PROOFS. Resets and the scan: what a reset leaves, what it cuts off, and what the scan rebuilds (R51, R127, R142, R143,
R149). -/

namespace Sys2Proof.Machine
open Sys2Proof.Safety

/-! ## The responses a reset sends up (R51) -/

/-- A state with responses of one feeder sent up after those already there. -/
def sentAll (k : Ply) (rs : List Response) (s : State) : State :=
  s.setBus { s.bus with upstream := s.bus.upstream ++ rs.map fun r => (feederId k, r) }

theorem foldl_sendUp (k : Ply) (rs : List Response) (s : State) :
    rs.foldl (fun s r => sendUp (feederId k) r s) s = sentAll k rs s := by
  induction rs generalizing s with
  | nil =>
    unfold sentAll
    rw [List.map_nil, List.append_nil]
    rfl
  | cons r rs ih =>
    rw [List.foldl_cons, ih]
    exact congrArg (fun up => s.setBus { s.bus with upstream := up }) (List.append_assoc ..)

theorem releaseRaw_eq (s : State) (k : Ply) : releaseRaw s k = sentAll k (feeder s k).queue s := foldl_sendUp ..

/-- The responses of feeders sent up one feeder after another. -/
theorem foldl_releaseRaw (ks : List Ply) (s : State) : ks.foldl releaseRaw s = s.setBus { s.bus with
    upstream := s.bus.upstream ++ ks.flatMap fun k => (feeder s k).queue.map fun r => (feederId k, r) } := by
  induction ks generalizing s with
  | nil =>
    rw [List.foldl_nil, List.flatMap_nil, List.append_nil]
    rfl
  | cons k ks ih =>
    rw [List.foldl_cons, ih, releaseRaw_eq, List.flatMap_cons, ← List.append_assoc]
    rfl

/-- Feeder k's own among the responses of several feeders. -/
theorem filter_flatMap_feeder {ks : List Ply} (nodup : ks.Nodup) (q : Ply → List Response) (k : Ply) :
    ((ks.flatMap fun j => (q j).map fun r => (feederId j, r)).filter fun x => x.1 == feederId k).map (·.2) =
      if k ∈ ks then q k else [] := by
  induction ks with
  | nil => rfl
  | cons j ks ih =>
    obtain ⟨new, nodup⟩ := List.nodup_cons.1 nodup
    rw [List.flatMap_cons, List.filter_append, List.map_append, ih nodup]
    by_cases same : j = k
    · subst same
      simp [new, List.filter_map, Function.comp_def]
    · have apart : feederId j ≠ feederId k := fun h => same (feederId_injective h)
      simp [apart, Ne.symm same, List.filter_map, Function.comp_def]

theorem mem_holders (s : State) (k : Ply) : k ∈ holders s ↔ (feeder s k).queue ≠ [] := by
  simp [holders, mem_plies]

theorem resetTo_blocks (wbase : Byte) {report : Report} (cut : Cut) (s : State) (idle : report.queue = [] ∧ report.flags = 0) :
    ResetBlocks (resetTo wbase report cut s) where
  streams := Four.get_const _
  generator := rfl
  pipe := rfl
  feeders := Six.get_const _
  tally := Six.get_const _
  spoil := rfl
  lines := rfl
  timer := rfl
  job := ⟨rfl, rfl, rfl, rfl, rfl⟩
  snapshot := rfl
  words := ⟨rfl, rfl, rfl, rfl, rfl, rfl⟩
  result := rfl
  store := ⟨rfl, rfl, rfl, rfl, rfl, rfl, rfl, rfl, rfl⟩
  report := idle

theorem releaseAllRaw_store (s : State) : (releaseAllRaw s).store = s.store := by
  rw [releaseAllRaw, foldl_releaseRaw]
  rfl

/-- What a reset sends up. -/
theorem resetTo_bus (wbase : Byte) (report : Report) (cut : Cut) (s : State) : ∃ ks : List Ply, ks.Perm (holders s) ∧
    (resetTo wbase report cut (begin s)).bus =
      { upstream := ks.flatMap fun k => (feeder s k).queue.map fun r => (feederId k, r), downstream := [] } := by
  refine ⟨arrange s.freeCount (holders s), arrange_perm _ _, ?_⟩
  change (releaseAllRaw (begin s)).bus = _
  rw [releaseAllRaw, foldl_releaseRaw]
  rfl

/-- Settles O7, both resets alike. -/
theorem resetLeavesBlocks : Obligations.ResetLeavesBlocks := by
  intro straps cut s c mem
  have leaves : ∀ (wbase : Byte) (report : Report), report.queue = [] ∧ report.flags = 0 → ∀ t,
      t = resetTo wbase report cut (begin s) → ResetBlocks t ∧ OutputsAtReset t ∧ t.resetting = cut.held ∧
      t.store.array = cutArray cut s.store ∧ t.bus.downstream = [] ∧
      (∀ k : Ply, (t.bus.upstream.filter fun x => x.1 == feederId k).map (·.2) = (feeder s k).queue) ∧
      (∀ x ∈ t.bus.upstream, ∃ k : Ply, x.1 = feederId k) := by
    rintro wbase report idle t rfl
    have blocks := resetTo_blocks wbase cut (begin s) idle
    obtain ⟨ks, perm, bus⟩ := resetTo_bus wbase report cut s
    have nodup : ks.Nodup := perm.nodup_iff.2 (List.Nodup.filter _ (by decide))
    refine ⟨blocks, outputs_of_resetBlocks blocks, rfl, ?_, by rw [bus], fun k => ?_, fun x hx => ?_⟩
    · exact congrArg (cutArray cut) (releaseAllRaw_store (begin s))
    · rw [bus, filter_flatMap_feeder nodup]
      split
      next => rfl
      next none =>
        rw [perm.mem_iff, mem_holders, not_not] at none
        exact none.symm
    · rw [bus] at hx
      obtain ⟨k, -, hx⟩ := List.mem_flatMap.1 hx
      obtain ⟨r, -, rfl⟩ := List.mem_map.1 hx
      exact ⟨k, rfl⟩
  simp only [List.mem_cons, List.not_mem_nil, or_false] at mem
  rcases mem with rfl | rfl
  · obtain ⟨blocks, outputs, held, array, down, order, up⟩ := leaves straps .cleared ⟨rfl, rfl⟩ _ rfl
    exact ⟨_, exec_powerOnReset .., blocks, outputs, held, array, down, order, up, fun _ => ⟨rfl, rfl, rfl, rfl⟩,
      fun h => by cases h⟩
  · obtain ⟨blocks, outputs, held, array, down, order, up⟩ := leaves s.path.wbase (Report.warm s.report) ⟨rfl, rfl⟩ _ rfl
    exact ⟨_, exec_warmReset .., blocks, outputs, held, array, down, order, up, (fun h => by cases h),
      fun _ => ⟨rfl, rfl, rfl, rfl⟩⟩

/-! ## What a reset cuts off (log 8) -/

/-- A slot of a sector whose erase was cut off. -/
theorem slot_partErased (kept torn : List Nat) {sec : Sector} (wf : Sector.wf sec = true) (m : Nat) :
    Sector.slot (Sector.partErased kept torn sec) m =
      if m ∈ kept then Sector.slot sec m
      else if m ∈ torn then (Sector.slot sec m).map fun x => { x with sound := false }
      else none := by
  rw [Sector.wf_iff] at wf
  induction sec with
  | nil => simp [Sector.partErased, Sector.slot]
  | cons p sec ih =>
    obtain ⟨first, rest⟩ := List.pairwise_cons.1 wf
    have tail := ih rest
    have gone : Sector.slot sec p.1 = none := by
      rw [Sector.slot, Option.map_eq_none_iff, List.find?_eq_none]
      intro q hq same
      have := first q hq
      have := eq_of_beq same
      omega
    rw [Sector.partErased] at tail ⊢
    rw [List.filterMap_cons, Sector.slot_cons]
    by_cases keeps : p.1 ∈ kept
    · rw [if_pos keeps]
      dsimp only
      rw [Sector.slot_cons, tail]
      by_cases here : p.1 = m
      · subst here; simp [keeps]
      · simp [here]
    · rw [if_neg keeps]
      by_cases tears : p.1 ∈ torn
      · rw [if_pos tears]
        dsimp only
        rw [Sector.slot_cons, tail]
        by_cases here : p.1 = m
        · subst here; simp [keeps, tears]
        · simp [here]
      · rw [if_neg tears]
        dsimp only
        rw [tail]
        by_cases here : p.1 = m
        · subst here; simp [keeps, tears]
        · simp [here]

theorem cutSlot_other {n m : Nat} (l : SlotLeft) (seq : Word) (body : EntryBody) (sec : Sector) (h : m ≠ n) :
    Sector.slot (cutSlot l n seq body sec) m = Sector.slot sec m := by
  cases l with
  | erased => rfl
  | torn | whole => exact Sector.slot_program_other _ _ h

theorem cutSlot_same (l : SlotLeft) (n : Nat) (seq : Word) (body : EntryBody) (sec : Sector) :
    Sector.slot (cutSlot l n seq body sec) n = match l with
      | .erased => Sector.slot sec n
      | .torn => some { seq, body, sound := false }
      | .whole => some { seq, body, sound := true } := by
  cases l with
  | erased => rfl
  | torn | whole => exact Sector.slot_program_same ..

/-- Settles O8, by the operation in flight. -/
theorem resetCutsOperationOff : Obligations.ResetCutsOperationOff := by
  intro cut st
  refine ⟨fun idle => by rw [cutArray, idle], fun i n seq body op => ?_, fun i op wf => ?_⟩
  · have array : cutArray cut st = st.array.set i (cutSlot cut.program n seq body (st.array.get i)) := by
      rcases op with op | op <;> rw [cutArray, op]
    rw [array]
    refine ⟨fun j other => Four.get_set_other _ _ (Ne.symm other), fun m other => ?_, ?_⟩
    · rw [Four.get_set_same, cutSlot_other _ _ _ _ other]
    · rw [Four.get_set_same]
      refine (cutSlot_same ..).trans ?_
      cases cut.program <;> rfl
  · have array : cutArray cut st = st.array.set i (Sector.partErased cut.kept cut.torn (st.array.get i)) := by
      rw [cutArray, op]
    rw [array]
    refine ⟨fun j other => Four.get_set_other _ _ (Ne.symm other), fun m => ?_⟩
    rw [Four.get_set_same, slot_partErased _ _ wf]

end Sys2Proof.Machine
end

section
/-! PROOFS. The recovery scan: the sectors classified, the highest sequence, and the book table rebuilt (R142, R143). -/

namespace Sys2Proof.Machine
open Sys2Proof.Safety

/-! ## The classification of the sectors (R142) -/

/-- Sector i's valid header stands below sector j's. -/
def Under (a : Four Sector) (i j : SectorId) : Prop :=
  ∃ g h, Sector.generation (a.get i) = some g ∧ Sector.generation (a.get j) = some h ∧
    (g.toNat < h.toNat ∨ (g = h ∧ headerSeq (a.get i) < headerSeq (a.get j)))

theorem Under.irrefl {a : Four Sector} {i : SectorId} : ¬ Under a i i := by
  rintro ⟨g, h, hi, hi', below⟩
  rw [hi, Option.some_inj] at hi'
  subst hi'
  omega

theorem Under.trans {a : Four Sector} {i j k : SectorId} (ij : Under a i j) (jk : Under a j k) : Under a i k := by
  obtain ⟨g, h, hi, hj, below⟩ := ij
  obtain ⟨h', l, hj', hk, above⟩ := jk
  rw [hj, Option.some_inj] at hj'
  subst hj'
  refine ⟨g, l, hi, hk, ?_⟩
  rcases below with below | ⟨rfl, below⟩ <;> rcases above with above | ⟨rfl, above⟩
  · exact .inl (by omega)
  · exact .inl below
  · exact .inl above
  · exact .inr ⟨rfl, by omega⟩

theorem outranks_none (a : Four Sector) (j : SectorId) :
    outranks a j none = (Sector.generation (a.get j)).isSome := by
  unfold outranks
  cases Sector.generation (a.get j) <;> rfl

theorem outranks_some {a : Four Sector} {b : SectorId} (headed : (Sector.generation (a.get b)).isSome = true)
    (j : SectorId) : outranks a j (some b) = true ↔ Under a b j := by
  obtain ⟨g, hg⟩ := Option.isSome_iff_exists.1 headed
  unfold outranks Under
  cases hj : Sector.generation (a.get j) with
  | none => simp
  | some h => simp [hg]

/-- The best found of the sectors looked at: none where no header is valid, else one that none stands above. -/
def Best (a : Four Sector) (seen : List SectorId) : Option SectorId → Prop
  | none => ∀ j ∈ seen, Sector.generation (a.get j) = none
  | some b => (Sector.generation (a.get b)).isSome = true ∧ ∀ j ∈ seen, ¬ Under a b j

theorem Best.look {a : Four Sector} {seen : List SectorId} {best : Option SectorId} (so : Best a seen best) (j : SectorId) :
    Best a (seen ++ [j]) (if outranks a j best then some j else best) := by
  cases best with
  | none =>
    rw [outranks_none]
    split
    next headed =>
      refine ⟨headed, fun i hi => ?_⟩
      rcases List.mem_append.1 hi with hi | hi
      · rintro ⟨-, h, -, hh, -⟩
        rw [so i hi] at hh
        cases hh
      · rw [List.mem_singleton.1 hi]
        exact Under.irrefl
    next headed =>
      intro i hi
      rcases List.mem_append.1 hi with hi | hi
      · exact so i hi
      · rw [List.mem_singleton.1 hi]
        simpa using headed
  | some b =>
    obtain ⟨headed, above⟩ := so
    split
    next outranked =>
      rw [outranks_some headed] at outranked
      refine ⟨?_, fun i hi => ?_⟩
      · obtain ⟨-, h, -, hj, -⟩ := outranked
        rw [hj]
        rfl
      · rcases List.mem_append.1 hi with hi | hi
        · exact fun lower => above i hi (outranked.trans lower)
        · rw [List.mem_singleton.1 hi]
          exact Under.irrefl
    next kept =>
      rw [outranks_some headed] at kept
      refine ⟨headed, fun i hi => ?_⟩
      rcases List.mem_append.1 hi with hi | hi
      · exact above i hi
      · rw [List.mem_singleton.1 hi]
        exact kept

theorem best_foldl (a : Four Sector) (js seen : List SectorId) (best : Option SectorId) (so : Best a seen best) :
    Best a (seen ++ js) (js.foldl (fun best j => if outranks a j best then some j else best) best) := by
  induction js generalizing seen best with
  | nil => rwa [List.append_nil]
  | cons j js ih =>
    have later := ih (seen ++ [j]) _ (so.look j)
    rwa [List.append_assoc] at later

theorem scanActive_best (a : Four Sector) : Best a fours (scanActive a) :=
  best_foldl a fours [] none (fun _ h => by cases h)

/-- The sector whose header stands above every other is the one the scan finds. -/
theorem scanActive_of_top {a : Four Sector} {i : SectorId} (headed : (Sector.generation (a.get i)).isSome = true)
    (top : ∀ j, j ≠ i → (Sector.generation (a.get j)).isSome = true → Under a j i) : scanActive a = some i := by
  have best := scanActive_best a
  cases found : scanActive a with
  | none =>
    rw [found] at best
    rw [best i (mem_fours i)] at headed
    cases headed
  | some b =>
    rw [found] at best
    by_contra other
    exact best.2 i (mem_fours i) (top b (fun same => other (by rw [same])) best.1)

theorem scanActive_ne_of_under {a : Four Sector} {i j : SectorId} (under : Under a i j) : scanActive a ≠ some i := by
  intro found
  have best := scanActive_best a
  rw [found] at best
  exact best.2 j (mem_fours j) under

theorem scanActive_ne_of_headless {a : Four Sector} {i : SectorId} (headless : Sector.generation (a.get i) = none) :
    scanActive a ≠ some i := by
  intro found
  have best := scanActive_best a
  rw [found] at best
  simp [Best, headless] at best

theorem scanStates_get (a : Four Sector) (i : SectorId) : (scanStates a).get i = scanState a i := by
  fin_cases i <;> rfl

theorem ne_nil_of_generation {sec : Sector} {g : Word} (h : Sector.generation sec = some g) : sec ≠ [] := by
  rintro rfl
  cases h

theorem scanState_erased {a : Four Sector} {i : SectorId} (h : a.get i = []) : scanState a i = .erased := by
  rw [scanState, h]
  rfl

theorem scanState_of_ne {a : Four Sector} {i : SectorId} (h : a.get i ≠ []) :
    scanState a i = if scanActive a = some i then .active else .full := by
  rw [scanState, if_neg (by simpa using h)]

/-! ## The highest sequence (R142) -/

/-- The running maximum over a list bounds it and is met. -/
theorem foldl_max_spec {α : Type} (f : α → Nat) (l : List α) (m : Nat) :
    (m ≤ l.foldl (fun m x => max m (f x)) m ∧ ∀ x ∈ l, f x ≤ l.foldl (fun m x => max m (f x)) m) ∧
    (l.foldl (fun m x => max m (f x)) m = m ∨ ∃ x ∈ l, f x = l.foldl (fun m x => max m (f x)) m) := by
  induction l generalizing m with
  | nil => simp
  | cons x l ih =>
    obtain ⟨⟨start, bound⟩, met⟩ := ih (max m (f x))
    rw [List.foldl_cons]
    refine ⟨⟨by omega, ?_⟩, ?_⟩
    · rintro y (_ | ⟨_, hy⟩)
      · omega
      · exact bound y hy
    · rcases met with met | ⟨y, hy, met⟩
      · rcases Nat.le_total m (f x) with h | h
        · exact .inr ⟨x, List.mem_cons_self, by omega⟩
        · exact .inl (by omega)
      · exact .inr ⟨y, List.mem_cons_of_mem _ hy, met⟩

/-- The highest sequence of a sector's entries that pass their check, or 0. -/
def highestSeq (sec : Sector) : Nat := (soundSlots sec).foldl (fun m x => max m x.seq.toNat) 0

theorem scanLastSeq_eq (a : Four Sector) :
    scanLastSeq a = BitVec.ofNat 32 (a.toList.foldl (fun m sec => max m (highestSeq sec)) 0) := by
  rw [scanLastSeq, List.foldl_map]
  rfl

theorem mem_soundSlots (sec : Sector) (e : Slot) : e ∈ soundSlots sec ↔ (∃ n, (n, e) ∈ sec) ∧ e.sound = true := by
  simp [soundSlots]

theorem mem_toList (a : Four Sector) (sec : Sector) : sec ∈ a.toList ↔ ∃ i, a.get i = sec := by
  constructor
  · intro h
    simp only [Four.toList, List.mem_cons, List.not_mem_nil, or_false] at h
    rcases h with rfl | rfl | rfl | rfl
    exacts [⟨0, rfl⟩, ⟨1, rfl⟩, ⟨2, rfl⟩, ⟨3, rfl⟩]
  · rintro ⟨i, rfl⟩
    fin_cases i <;> simp [Four.toList, Four.get]

/-- An entry of the array that passes its check. -/
def SoundEntry (a : Four Sector) (e : Slot) : Prop := ∃ j n, (n, e) ∈ a.get j ∧ e.sound = true

/-- The scan's last sequence bounds that of every entry that passes its check, and is 0 or one of theirs. -/
theorem scanLastSeq_spec (a : Four Sector) :
    (∀ e, SoundEntry a e → e.seq.toNat ≤ (scanLastSeq a).toNat) ∧
    (scanLastSeq a = 0 ∨ ∃ e, SoundEntry a e ∧ e.seq = scanLastSeq a) := by
  obtain ⟨⟨-, bound⟩, met⟩ := foldl_max_spec highestSeq a.toList 0
  have value := scanLastSeq_eq a
  generalize a.toList.foldl (fun m sec => max m (highestSeq sec)) 0 = top at *
  have reached : top = 0 ∨ ∃ e, SoundEntry a e ∧ e.seq.toNat = top := by
    rcases met with met | ⟨sec, hsec, met⟩
    · exact .inl met
    · obtain ⟨i, rfl⟩ := (mem_toList _ _).1 hsec
      rcases (foldl_max_spec (fun e : Slot => e.seq.toNat) (soundSlots (a.get i)) 0).2 with zero | ⟨e, he, top⟩
      · exact .inl (met ▸ zero)
      · obtain ⟨⟨n, hn⟩, sound⟩ := (mem_soundSlots _ _).1 he
        exact .inr ⟨e, ⟨i, n, hn, sound⟩, top.trans met⟩
  have fits : (scanLastSeq a).toNat = top := by
    rw [value, BitVec.toNat_ofNat]
    rcases reached with zero | ⟨e, -, he⟩
    · rw [zero]
    · exact Nat.mod_eq_of_lt (he ▸ e.seq.isLt)
  refine ⟨fun e ⟨i, n, hn, sound⟩ => ?_, ?_⟩
  · rw [fits]
    exact Nat.le_trans ((foldl_max_spec (fun e : Slot => e.seq.toNat) (soundSlots (a.get i)) 0).1.2 e
      ((mem_soundSlots _ _).2 ⟨⟨n, hn⟩, sound⟩)) (bound _ ((mem_toList _ _).2 ⟨i, rfl⟩))
  · rcases reached with zero | ⟨e, entry, he⟩
    · exact .inl (BitVec.eq_of_toNat_eq (fits.trans zero))
    · exact .inr ⟨e, entry, BitVec.eq_of_toNat_eq (he.trans fits.symm)⟩

/-! ## The table rebuilt (R143) -/

theorem mem_scanEntries (a : Four Sector) (e : Slot) : e ∈ scanEntries a ↔ scanReads a e := by
  simp only [scanEntries, List.mem_flatten, List.mem_map, mem_toList, scanReads]
  constructor
  · rintro ⟨_, ⟨_, ⟨i, rfl⟩, rfl⟩, he⟩
    split at he
    next headed =>
      obtain ⟨⟨n, hn⟩, sound⟩ := (mem_soundSlots _ _).1 he
      exact ⟨i, n, headed, hn, sound⟩
    next => cases he
  · rintro ⟨i, n, headed, hn, sound⟩
    refine ⟨_, ⟨_, ⟨i, rfl⟩, rfl⟩, ?_⟩
    rw [if_pos headed]
    exact (mem_soundSlots _ _).2 ⟨⟨n, hn⟩, sound⟩

theorem mem_insertRow (x r : BookRow) (t : List BookRow) : r ∈ insertRow x t ↔ r = x ∨ r ∈ t := by
  induction t with
  | nil => simp [insertRow]
  | cons y t ih =>
    rw [insertRow]
    split
    · simp
    · simp only [List.mem_cons, ih]
      exact or_left_comm

/-- The rows stand in strictly ascending order of book id. -/
abbrev Rising (t : List BookRow) : Prop := t.Pairwise fun x y => x.book.toNat < y.book.toNat

theorem insertRow_rising {x : BookRow} {t : List BookRow} (rising : Rising t) (new : ∀ r ∈ t, r.book ≠ x.book) :
    Rising (insertRow x t) := by
  induction t with
  | nil => exact List.pairwise_singleton ..
  | cons y t ih =>
    obtain ⟨first, rest⟩ := List.pairwise_cons.1 rising
    rw [insertRow]
    split
    next before =>
      refine List.pairwise_cons.2 ⟨fun r hr => ?_, rising⟩
      rcases List.mem_cons.1 hr with rfl | hr
      · exact before
      · exact Nat.lt_trans before (first r hr)
    next after =>
      refine List.pairwise_cons.2 ⟨fun r hr => ?_, ih rest fun r hr => new r (List.mem_cons_of_mem _ hr)⟩
      rcases (mem_insertRow _ _ _).1 hr with rfl | hr
      · have apart : y.book.toNat ≠ r.book.toNat := fun same => new y List.mem_cons_self (BitVec.eq_of_toNat_eq same)
        omega
      · exact first r hr

/-- The row the entries give a book. -/
def givenRow (es : List Slot) (book : Word) : Option BookRow := (latestOf book es).bind fun e => rowOf e.body

/-- Folding `later` ends in the entry it began with or in one of the list. -/
theorem foldl_later_mem (es : List Slot) (acc : Option Slot) (e : Slot)
    (h : es.foldl (fun acc e => some (later acc e)) acc = some e) : acc = some e ∨ e ∈ es := by
  induction es generalizing acc with
  | nil => exact .inl h
  | cons x es ih =>
    rcases ih _ h with found | found
    · have either : later acc x = x ∨ acc = some (later acc x) := by
        cases acc with
        | none => exact .inl rfl
        | some y =>
          rw [later]
          split
          · exact .inl rfl
          · exact .inr rfl
      rw [Option.some_inj] at found
      rw [found] at either
      rcases either with rfl | stood
      · exact .inr List.mem_cons_self
      · exact .inl stood
    · exact .inr (List.mem_cons_of_mem _ found)

/-- Folding `later` ends in the entry above every other one. -/
theorem foldl_later_top {es : List Slot} {e : Slot} (top : ∀ f ∈ es, f ≠ e → f.seq.toNat < e.seq.toNat)
    (acc : Option Slot) (below : ∀ f, acc = some f → f ≠ e → f.seq.toNat < e.seq.toNat) (here : acc = some e ∨ e ∈ es) :
    es.foldl (fun acc e => some (later acc e)) acc = some e := by
  induction es generalizing acc with
  | nil => simpa using here
  | cons x es ih =>
    have low : x ≠ e → x.seq.toNat < e.seq.toNat := top x List.mem_cons_self
    refine ih (fun f hf => top f (List.mem_cons_of_mem _ hf)) (some (later acc x)) ?_ ?_
    · intro f hf
      rw [Option.some_inj] at hf
      subst hf
      cases acc with
      | none => exact low
      | some y =>
        rw [later]
        split
        · exact low
        · exact below y rfl
    · rcases here with rfl | here
      · left
        rw [later, Option.some_inj]
        by_cases same : x = e
        · rw [same, ite_self]
        · rw [if_neg (by have := low same; omega)]
      · rcases List.mem_cons.1 here with rfl | here
        · left
          rw [Option.some_inj]
          cases acc with
          | none => rfl
          | some y =>
            rw [later]
            split
            · rfl
            next notLater =>
              by_contra other
              exact notLater (below y rfl other)
        · exact .inr here

theorem latestOf_mem {book : Word} {es : List Slot} {e : Slot} (h : latestOf book es = some e) :
    e ∈ es ∧ bookOf e.body = some book := by
  rcases foldl_later_mem _ _ _ h with h | h
  · cases h
  · simpa using h

theorem latestOf_top {book : Word} {es : List Slot} {e : Slot} (mem : e ∈ es) (own : bookOf e.body = some book)
    (top : ∀ f ∈ es, bookOf f.body = some book → f ≠ e → f.seq.toNat < e.seq.toNat) : latestOf book es = some e := by
  refine foldl_later_top (fun f hf => ?_) none (fun f hf => by cases hf) (.inr (by simpa using ⟨mem, own⟩))
  have ⟨hf, hb⟩ : f ∈ es ∧ bookOf f.body = some book := by simpa using hf
  exact top f hf hb

theorem bookOf_of_rowOf {b : EntryBody} {r : BookRow} (h : rowOf b = some r) : bookOf b = some r.book := by
  cases b <;> cases h <;> rfl

theorem givenRow_some {es : List Slot} {book : Word} {r : BookRow} (h : givenRow es book = some r) :
    r.book = book ∧ book ∈ es.filterMap fun e => bookOf e.body := by
  obtain ⟨e, latest, row⟩ := Option.bind_eq_some_iff.1 h
  obtain ⟨mem, own⟩ := latestOf_mem latest
  have book' := bookOf_of_rowOf row
  rw [own, Option.some_inj] at book'
  exact ⟨book'.symm, List.mem_filterMap.2 ⟨e, mem, own⟩⟩

/-- The table of some books' rows: in order, each row the one the entries give its book. -/
structure TableOf (es : List Slot) (books : List Word) (t : List BookRow) : Prop where
  rising : Rising t
  rows : ∀ r, r ∈ t ↔ r.book ∈ books ∧ givenRow es r.book = some r

theorem TableOf.add {es : List Slot} {books : List Word} {t : List BookRow} (table : TableOf es books t) (book : Word) :
    TableOf es (books ++ [book]) (addBook es t book) := by
  obtain ⟨rising, rows⟩ := table
  have widen : ∀ r : BookRow, r.book ∈ books ++ [book] ↔ r.book ∈ books ∨ r.book = book := by simp
  rw [addBook]
  split
  next stands =>
    obtain ⟨x, hx, same⟩ := List.any_eq_true.1 stands
    obtain ⟨known, -⟩ := (rows x).1 hx
    rw [eq_of_beq same] at known
    refine ⟨rising, fun r => ?_⟩
    rw [rows, widen, or_iff_left_of_imp (fun same => same ▸ known)]
  next absent =>
    have fresh : ∀ r ∈ t, r.book ≠ book := by simpa using absent
    rw [← givenRow]
    cases given : givenRow es book with
    | none =>
      refine ⟨rising, fun r => ?_⟩
      rw [rows, widen]
      refine and_congr_left fun own => (or_iff_left_of_imp fun same => ?_).symm
      rw [same, given] at own
      cases own
    | some x =>
      have xbook := (givenRow_some given).1
      refine ⟨insertRow_rising rising fun r hr => xbook ▸ fresh r hr, fun r => ?_⟩
      rw [mem_insertRow, rows, widen]
      constructor
      · rintro (rfl | ⟨known, own⟩)
        · exact ⟨.inr xbook, by rw [xbook, given]⟩
        · exact ⟨.inl known, own⟩
      · rintro ⟨known | same, own⟩
        · exact .inr ⟨known, own⟩
        · rw [same, given, Option.some_inj] at own
          exact .inl own.symm

theorem TableOf.addAll {es : List Slot} (new : List Word) {books : List Word} {t : List BookRow}
    (table : TableOf es books t) : TableOf es (books ++ new) (new.foldl (addBook es) t) := by
  induction new generalizing books t with
  | nil => rwa [List.append_nil]
  | cons b new ih =>
    have rest := ih (table.add b)
    rwa [List.append_assoc] at rest

theorem scanTable_of (a : Four Sector) : TableOf (scanEntries a) ((scanEntries a).filterMap fun e => bookOf e.body) (scanTable a) :=
  TableOf.addAll (books := []) _ ⟨.nil, fun r => by simp⟩

/-- A row of a table in order is the row of its book. -/
theorem find?_book {t : List BookRow} (rising : Rising t) {r : BookRow} {book : Word} :
    t.find? (fun x => x.book == book) = some r ↔ r ∈ t ∧ r.book = book := by
  constructor
  · intro h
    exact ⟨List.mem_of_find?_eq_some h, by simpa using List.find?_some h⟩
  · rintro ⟨mem, rfl⟩
    refine find?_eq_first rising mem (by simp) fun x _ lower => ?_
    have : x.book ≠ r.book := fun same => by rw [same] at lower; omega
    simpa using this

/-- The row the scan leaves a book is the one its latest entry gives. -/
theorem scanned_row (st : Store) (book : Word) : (scanned st).row book = givenRow (scanEntries st.array) book := by
  obtain ⟨rising, rows⟩ := scanTable_of st.array
  refine Option.ext fun r => ?_
  change (scanTable st.array).find? (fun x => x.book == book) = some r ↔ _
  rw [find?_book rising, rows]
  constructor
  · rintro ⟨⟨-, given⟩, rfl⟩
    exact given
  · intro given
    obtain ⟨rfl, known⟩ := givenRow_some given
    exact ⟨⟨known, given⟩, rfl⟩

/-- Settles O9. -/
theorem scanRebuildsStore : Obligations.ScanRebuildsStore := by
  intro st i book
  have state : (scanned st).sectors.get i = scanState st.array i := scanStates_get ..
  rw [state, scanned_row]
  refine ⟨scanState_erased, fun written headless => ?_, fun g hg top => ?_, fun g j h hg hh under => ?_, ?_, ?_,
    (scanTable_of st.array).rising, fun absent => ?_, fun e reads own top => ?_⟩
  · rw [scanState_of_ne written, if_neg (scanActive_ne_of_headless headless)]
  · rw [scanState_of_ne (ne_nil_of_generation hg), if_pos]
    refine scanActive_of_top (by rw [hg]; rfl) fun j other headed => ?_
    obtain ⟨h, hh⟩ := Option.isSome_iff_exists.1 headed
    exact ⟨h, g, hh, hg, top j h other hh⟩
  · rw [scanState_of_ne (ne_nil_of_generation hg), if_neg (scanActive_ne_of_under ⟨g, h, hg, hh, under⟩)]
  · exact fun n e mem sound => (scanLastSeq_spec st.array).1 e ⟨i, n, mem, sound⟩
  · rcases (scanLastSeq_spec st.array).2 with zero | ⟨e, ⟨j, n, mem, sound⟩, last⟩
    · exact .inl zero
    · exact .inr ⟨j, n, e, mem, sound, last⟩
  · rw [givenRow, Option.bind_eq_none_iff]
    intro e latest
    obtain ⟨mem, own⟩ := latestOf_mem latest
    exact absurd own (absent e ((mem_scanEntries _ _).1 mem))
  · rw [givenRow, latestOf_top ((mem_scanEntries _ _).2 reads) own
      fun f hf => top f ((mem_scanEntries _ _).1 hf), Option.bind_some]
    cases e.body <;> rfl

end Sys2Proof.Machine
end

section
/-! PROOFS. The store's choice of its next operation (R134, R135, R137, R138, R145). -/

namespace Sys2Proof.Machine
open Sys2Proof.Safety

/-! ## What stands in the way of a choice -/

theorem mayStart_iff (st : Store) : mayStart st = true ↔
    st.op = none ∧ st.quiesced = false ∧ (∀ c, st.phase ≠ .failed c) ∧ st.scanMade = true := by
  unfold mayStart
  cases phase : st.phase <;> simp [and_assoc, and_comm]

theorem chooseNext_of_not_mayStart {s : State} (h : mayStart s.store = false) : chooseNext s = s :=
  choose_of_not_mayStart h

/-! ## The starts of R134 -/

theorem startStep_eq (c : Compaction) (st : Store) : startStep c st =
    { st with lastSeq := st.lastSeq + 1, compaction := some c, op := some (compactionStep st c) } := by
  unfold startStep compactionStep
  cases c.todo <;> rfl

theorem compactionNeeded_iff {st : Store} (idle : st.compaction = none) : compactionNeeded st = true ↔
    st.active = none ∨ ∃ a, st.active = some a ∧ Sector.free (st.array.get a) ≤ 32 := by
  unfold compactionNeeded
  rw [idle]
  cases st.active with
  | none => simp
  | some a =>
    simp only [Option.isNone_none, Bool.true_and, Config.compactionFloor, reduceCtorEq, Option.some.injEq,
      exists_eq_left', false_or]
    exact decide_eq_true_iff

theorem compactionStart_some {st : Store} {c : Compaction} (h : st.compaction = some c) :
    compactionStart st = some (startStep c st) := by
  rw [compactionStart, h]

theorem compactionStart_needed {st : Store} {i : SectorId} (idle : st.compaction = none)
    (need : compactionNeeded st = true) (target : st.lowest .erased = some i) :
    compactionStart st = some (startStep { target := i, todo := st.table, retried := false } st) := by
  rw [compactionStart, idle]
  dsimp only
  rw [if_pos need, target]

/-- No compaction starts: none is in progress, and it is not needed or has no target. -/
theorem compactionStart_none {st : Store} (idle : st.compaction = none)
    (h : compactionNeeded st = false ∨ st.lowest .erased = none) : compactionStart st = none := by
  rw [compactionStart, idle]
  dsimp only
  rcases h with h | h
  · rw [if_neg (by rw [h]; decide)]
  · rw [h, ite_self]

theorem appendStart_some {st : Store} {a : SectorId} (body : EntryBody) (active : st.active = some a)
    (room : Sector.free (st.array.get a) ≠ 0) : appendStart st body = some (appendStarted st a body) := by
  rw [appendStart, active]
  dsimp only
  rw [if_neg room]
  rfl

theorem appendStart_full {st : Store} {a : SectorId} (body : EntryBody) (active : st.active = some a)
    (full : Sector.free (st.array.get a) = 0) : appendStart st body = none := by
  rw [appendStart, active]
  exact if_pos full

theorem appendStart_noActive {st : Store} (body : EntryBody) (active : st.active = none) : appendStart st body = none := by
  rw [appendStart, active]

theorem headBlocked_full {st : Store} {a : SectorId} (active : st.active = some a)
    (full : Sector.free (st.array.get a) = 0) : headBlocked st = true := by
  simp [headBlocked, Store.activeFree, active, full]

theorem headBlocked_noActive {st : Store} (active : st.active = none) : headBlocked st = false := by
  simp [headBlocked, active]

theorem eraseStart_some {st : Store} {i : SectorId} (h : st.lowest .full = some i) : eraseStart st = eraseStarted st i := by
  rw [eraseStart, h]
  rfl

theorem eraseStart_none {st : Store} (h : st.lowest .full = none) : eraseStart st = st := by rw [eraseStart, h]

/-! ## The choice, one row of the order each -/

section
variable {told : State → State} {s : State} (may : mayStart s.store = true)
include may

theorem choose_compacts {st : Store} (h : compactionStart s.store = some st) : choose told s = s.setStore st := by
  rw [choose, chooseFrom, if_pos may, h]

theorem choose_append (h : compactionStart s.store = none) :
    choose told s = chooseAppend told (chooseFrom told s.store.queue.length) s := by
  rw [choose, chooseFrom, if_pos may, h]

theorem choose_idle (h : compactionStart s.store = none) (queue : s.store.queue = []) :
    choose told s = s.setStore (eraseStart s.store) := by
  rw [choose_append may h, chooseAppend, queue]
  rfl

section
variable {r : Request} {rest : List Request} (h : compactionStart s.store = none) (queue : s.store.queue = r :: rest)
include h queue

theorem choose_appends {body : EntryBody} {st : Store} (hb : appendBody s.store r = some body)
    (start : appendStart s.store body = some st) : choose told s = s.setStore st := by
  rw [choose_append may h, chooseAppend, queue]
  dsimp only [List.head?_cons]
  rw [hb]
  dsimp only
  rw [start]

theorem choose_waits {body : EntryBody} (hb : appendBody s.store r = some body)
    (start : appendStart s.store body = none) (blocked : headBlocked s.store = true) : choose told s = waitFull s := by
  rw [choose_append may h, chooseAppend, queue]
  dsimp only [List.head?_cons]
  rw [hb]
  dsimp only
  rw [start]
  exact if_pos blocked

theorem choose_erases {body : EntryBody} (hb : appendBody s.store r = some body)
    (start : appendStart s.store body = none) (free : headBlocked s.store = false) :
    choose told s = s.setStore (eraseStart s.store) := by
  rw [choose_append may h, chooseAppend, queue]
  dsimp only [List.head?_cons]
  rw [hb]
  dsimp only
  rw [start]
  exact if_neg (by rw [free]; decide)

end
end

/-! ## What the end of CLOSE leaves of the store -/

/-- What a change of the power warning may do to the store: QUIESCED or no more, recovery ended, a FAILED store left
alone (R140). -/
structure Warned (s t : Store) : Prop where
  rest : t = { s with phase := t.phase, quiesced := t.quiesced }
  failed : ∀ c, t.phase = .failed c ↔ s.phase = .failed c
  calm : ∀ c, s.phase = .failed c → s.quiesced = false → t = s

theorem Warned.refl (s : Store) : Warned s s := ⟨rfl, fun _ => .rfl, fun _ _ _ => rfl⟩

theorem Warned.trans {s t u : Store} (h : Warned s t) (k : Warned t u) : Warned s u where
  rest := by rw [k.rest, h.rest]
  failed c := (k.failed c).trans (h.failed c)
  calm c failed awake := by
    have same := h.calm c failed awake
    rw [← same] at failed awake
    exact (k.calm c failed awake).trans same

theorem endRecovery_warned (s : State) : Warned s.store (endRecovery s).store := by
  unfold endRecovery
  split
  next h => exact ⟨rfl, fun c => by simp [h.1, State.setStore], fun c failed => by rw [h.1] at failed; cases failed⟩
  next => exact .refl _

theorem powerActive_warned (s : State) : Warned s.store (powerActive s).store := by
  cases phase : s.store.phase with
  | failed c =>
    rw [powerActive_failed phase, raise_store]
    exact .refl _
  | recovering | inService =>
    rw [powerActive_works (by simp [phase])]
    exact ⟨rfl, fun c => .rfl, fun c failed => by rw [phase] at failed; cases failed⟩

theorem powerInactive_warned (s : State) : Warned s.store (powerInactive s).store := by
  unfold powerInactive
  dsimp only
  split
  next asleep =>
    refine .trans ?_ (endRecovery_warned _)
    exact ⟨rfl, fun c => .rfl, fun c _ awake => by rw [State.setLines_store, awake] at asleep; cases asleep⟩
  next => exact .refl _

@[simp] theorem holdTest_store (s : State) : (holdTest s).store = s.store := by
  unfold holdTest
  split
  · unfold enterHold
    rw [blankPending_eq]
    rfl
  · rfl

@[simp] theorem holdreqTo_store (active : Bool) (s : State) : (holdreqTo active s).store = s.store := by
  unfold holdreqTo
  dsimp only
  split
  · exact holdTest_store _
  · rfl

theorem Warned.of_eq {s t : Store} (h : t = s) : Warned s t := h ▸ .refl s

/-- The part with a ticket's settings in force and a HOLDREQ level. -/
def withSettings (t : Option Ticket) (holdreq : Bool) (s : State) : State :=
  { s with ticket := { s.ticket with active := t }
           lines := { s.lines with runs := List.replicate 18 0, holdreq } }

/-- The part with the settings of a ticket in force, HOLDREQ judged by them and PWRWARN not yet. -/
def settingsTaken (t : Option Ticket) (s : State) : State :=
  if inputActive (withSettings t s.lines.holdreq s) inHoldreq != s.lines.holdreq then
    holdreqTo (inputActive (withSettings t s.lines.holdreq s) inHoldreq) (withSettings t s.lines.holdreq s)
  else withSettings t s.lines.holdreq s

theorem setSettings_eq (t : Option Ticket) (s : State) : setSettings t s =
    if inputActive (settingsTaken t s) inPwrwarn != (settingsTaken t s).lines.pwrwarn then
      (if inputActive (settingsTaken t s) inPwrwarn then powerActive (settingsTaken t s)
        else powerInactive (settingsTaken t s))
    else settingsTaken t s := rfl

@[simp] theorem settingsTaken_store (t : Option Ticket) (s : State) : (settingsTaken t s).store = s.store := by
  unfold settingsTaken
  split
  · exact holdreqTo_store ..
  · rfl

theorem setSettings_warned (t : Option Ticket) (s : State) : Warned s.store (setSettings t s).store := by
  rw [setSettings_eq, ← settingsTaken_store t s]
  split
  · split
    · exact powerActive_warned _
    · exact powerInactive_warned _
  · exact .refl _

@[simp] theorem endPending_store (r : ResultCode) (d : Word) (s : State) : (endPending r d s).store = s.store := by
  unfold endPending
  split <;> rfl

/-- The pending CLOSE answered: DONE, or with the lowest stream whose close append failed (R191). -/
def closeReplied (s : State) : State :=
  match s.ticket.waiting.bind (·.failed) with
  | none => endPending .done 0 s
  | some i => endPending .storeUnavailable (BitVec.ofNat 32 i.val) s

/-- The job dropped by every block, the settings of its ticket still in force (R191). -/
def jobDropped (s : State) : State :=
  { s with
    ctl := { s.ctl with job := .idle, snapshot := .cleared }
    streams := .cleared
    pipe := .cleared
    spoil := { s.spoil with zones := .const 0, good := 0, void := 0, remade := 0, blank := 0 }
    tally := s.tally.map Receiver.turnedOff
    path := { s.path with feeders := s.path.feeders.map fun f => { f with cont := none, slotReads := 0, strays := 0 } }
    timer := .cleared
    lines := { s.lines with glitches := 0 } }

@[simp] theorem jobDropped_store (s : State) : (jobDropped s).store = s.store := rfl

theorem closeEnd_eq (s : State) : closeEnd s = setSettings none (jobDropped (closeReplied s)) := by
  unfold closeEnd closeReplied
  cases s.ticket.waiting.bind (·.failed) with
  | none =>
    dsimp only
    generalize endPending .done 0 s = x
    rfl
  | some i =>
    dsimp only
    generalize endPending .storeUnavailable (BitVec.ofNat 32 i.val) s = x
    rfl

@[simp] theorem closeReplied_store (s : State) : (closeReplied s).store = s.store := by
  unfold closeReplied
  split <;> exact endPending_store ..

theorem closeEnd_warned (s : State) : Warned s.store (closeEnd s).store := by
  have h := setSettings_warned none (jobDropped (closeReplied s))
  rwa [jobDropped_store, closeReplied_store, ← closeEnd_eq] at h

theorem closeIfDone_warned (s : State) : Warned s.store (closeIfDone s).store := by
  unfold closeIfDone
  split
  · split
    · exact closeEnd_warned s
    · exact .refl _
  · exact .refl _

theorem closeIfDone_queue (s : State) : (closeIfDone s).store.queue = s.store.queue := by
  rw [(closeIfDone_warned s).rest]

/-- A close append of a book with no row is answered and the store chooses again. -/
theorem choose_answers {told : State → State} (tells : ∀ s, (told s).store.queue = s.store.queue) {s : State}
    (may : mayStart s.store = true) {r : Request} {rest : List Request} (h : compactionStart s.store = none)
    (queue : s.store.queue = r :: rest) (rowless : appendBody s.store r = none) :
    choose told s = choose told (told (dropHead s)) := by
  rw [choose_append may h, chooseAppend, queue]
  dsimp only [List.head?_cons]
  rw [rowless]
  dsimp only
  rw [choose, tells]
  simp [dropHead, queue, State.setStore]

theorem chooseNext_answers {s : State} (may : mayStart s.store = true) {r : Request} {rest : List Request}
    (h : compactionStart s.store = none) (queue : s.store.queue = r :: rest) (rowless : appendBody s.store r = none) :
    chooseNext s = chooseNext (closeIfDone (dropHead s)) := choose_answers closeIfDone_queue may h queue rowless

/-- Settles O58, by the rows of the order. -/
theorem storeChoosesByOrder : Obligations.StoreChoosesByOrder := by
  intro s
  refine ⟨fun stopped => chooseNext_of_not_mayStart ?_, fun op quiesced phase scanMade => ?_⟩
  · rw [Bool.eq_false_iff, Ne, mayStart_iff]
    rintro ⟨op, quiesced, phase, scanMade⟩
    rcases stopped with h | h | ⟨c, h⟩ | h
    · exact h op
    · rw [quiesced] at h; cases h
    · exact phase c h
    · rw [scanMade] at h; cases h
  · have may : mayStart s.store = true := (mayStart_iff _).2 ⟨op, quiesced, phase, scanMade⟩
    refine ⟨fun c hc => ?_, ?_, fun idle unneeded => ?_⟩
    · rw [chooseNext, choose_compacts may (compactionStart_some hc), startStep_eq, ← hc]
      rfl
    · rintro idle need i c target rfl
      rw [chooseNext, choose_compacts may (compactionStart_needed idle ((compactionNeeded_iff idle).2 need) target), startStep_eq]
      rfl
    · have start : compactionStart s.store = none := by
        refine compactionStart_none idle (unneeded.imp_left ?_)
        rintro ⟨a, active, room⟩
        rw [Bool.eq_false_iff, Ne, compactionNeeded_iff idle, active]
        rintro (h | ⟨b, h, low⟩)
        · cases h
        · cases h; omega
      refine ⟨fun r rest body a queue hb active => ⟨fun room => ?_, fun full st hst => ?_⟩, fun r rest queue rowless => ?_,
        fun nothing => ?_⟩
      · rw [chooseNext, choose_appends may start queue hb (appendStart_some body active room)]
        rfl
      · rw [chooseNext, choose_waits may start queue hb (appendStart_full body active full) (headBlocked_full active full)]
        have erase : eraseStart { s.store with fullWait := true } = st := by
          rcases hst with ⟨i, lowest, rfl⟩ | ⟨lowest, rfl⟩
          · exact eraseStart_some lowest
          · exact eraseStart_none lowest
        rw [waitFull, erase]
        rfl
      · rw [chooseNext_answers may start queue rowless, dropHead, queue]
        rfl
      · have erases : chooseNext s = s.setStore (eraseStart s.store) := by
          rcases nothing with queue | ⟨r, rest, body, queue, hb, active⟩
          · exact choose_idle may start queue
          · exact choose_erases may start queue hb (appendStart_noActive body active) (headBlocked_noActive active)
        refine ⟨fun i lowest => ?_, fun lowest => ?_⟩
        · rw [erases, eraseStart_some lowest]
          rfl
        · rw [erases, eraseStart_none lowest]
          rfl

end Sys2Proof.Machine
end

section
/-! PROOFS. What serving responses and choosing an operation leave alone, and the completions of erases (R49, R134 to R138). -/

namespace Sys2Proof.Machine
open Sys2Proof.Safety

/-! ## What serving responses does not reach -/

/-- `t` differs from `s` in no block that taking and holding responses does not reach. -/
structure Apart (s t : State) : Prop where
  store : t.store = s.store
  streams : t.streams = s.streams
  ticket : t.ticket = s.ticket
  lines : t.lines = s.lines
  timer : t.timer = s.timer
  tally : t.tally = s.tally
  resetting : t.resetting = s.resetting

theorem Apart.refl (s : State) : Apart s s := ⟨rfl, rfl, rfl, rfl, rfl, rfl, rfl⟩

theorem Apart.after {s t u : State} (k : Apart t u) (h : Apart s t) : Apart s u :=
  ⟨k.store.trans h.store, k.streams.trans h.streams, k.ticket.trans h.ticket, k.lines.trans h.lines,
    k.timer.trans h.timer, k.tally.trans h.tally, k.resetting.trans h.resetting⟩

theorem apart_raise (kind : FaultKind) (ply : BitVec 3) (serial : Word) (s : State) : Apart s (raise kind ply serial s) :=
  ⟨raise_store .., raise_streams .., raise_ticket .., raise_lines .., raise_timer .., raise_tally .., raise_resetting ..⟩

theorem apart_blank (s : State) : Apart s (blankPending s) := by
  rw [blankPending_eq]
  exact ⟨rfl, rfl, rfl, rfl, rfl, rfl, rfl⟩

theorem apart_applyPathMark (k : Ply) (m : PathMark) (s : State) : Apart s (applyPathMark k m s) := by
  unfold applyPathMark
  split
  · unfold completeField
    split
    · exact .refl s
    · exact ⟨rfl, rfl, rfl, rfl, rfl, rfl, rfl⟩
  · exact (apart_raise ..).after ⟨rfl, rfl, rfl, rfl, rfl, rfl, rfl⟩
  · split
    · exact (apart_raise ..).after ⟨rfl, rfl, rfl, rfl, rfl, rfl, rfl⟩
    · exact .refl s

theorem apart_applyPathMarks (k : Ply) (ms : List PathMark) (s : State) :
    Apart s (ms.foldl (fun s m => applyPathMark k m s) s) := by
  induction ms generalizing s with
  | nil => exact .refl s
  | cons m ms ih => exact (ih _).after (apart_applyPathMark k m s)

theorem apart_takeResponse (k : Ply) (r : Response) (s : State) : Apart s (takeResponse k r s) := by
  unfold takeResponse
  split
  · exact ⟨rfl, rfl, rfl, rfl, rfl, rfl, rfl⟩
  · dsimp only
    refine Apart.after (t := List.foldl _ (setFeeder k _ s) _) ⟨rfl, rfl, rfl, rfl, rfl, rfl, rfl⟩ ?_
    exact (apart_applyPathMarks ..).after ⟨rfl, rfl, rfl, rfl, rfl, rfl, rfl⟩

theorem apart_takeHead (k : Ply) (s : State) : Apart s (takeHead k s) := by
  unfold takeHead
  dsimp only
  split
  · exact .refl s
  · exact (apart_takeResponse ..).after ⟨rfl, rfl, rfl, rfl, rfl, rfl, rfl⟩

theorem apart_serveHead (k : Ply) (s : State) : Apart s (serveHead k s) := by
  unfold serveHead
  split
  · exact .refl s
  next =>
    split
    · unfold holdHead bindExpire
      dsimp only
      split
      · exact (apart_raise ..).after ((apart_blank _).after ⟨rfl, rfl, rfl, rfl, rfl, rfl, rfl⟩)
      · exact ⟨rfl, rfl, rfl, rfl, rfl, rfl, rfl⟩
    · exact apart_takeHead k s

theorem apart_settle (s : State) : Apart s (settle s) :=
  settle_induction (P := Apart s) (fun t k c _ before => (apart_serveHead k (t.setFree c)).after
    (Apart.after (t := t) ⟨rfl, rfl, rfl, rfl, rfl, rfl, rfl⟩ before)) (.refl s)

@[simp] theorem settle_store (s : State) : (settle s).store = s.store := (apart_settle s).store
@[simp] theorem settle_streams (s : State) : (settle s).streams = s.streams := (apart_settle s).streams
@[simp] theorem settle_ticket (s : State) : (settle s).ticket = s.ticket := (apart_settle s).ticket
@[simp] theorem settle_lines (s : State) : (settle s).lines = s.lines := (apart_settle s).lines
@[simp] theorem settle_timer (s : State) : (settle s).timer = s.timer := (apart_settle s).timer
@[simp] theorem settle_tally (s : State) : (settle s).tally = s.tally := (apart_settle s).tally

/-! ## What a choice leaves of the store -/

/-- What choices may do to the store: close appends answered leave the queue's front, a FULL sector's erase starts, a new
compaction starts on an ERASED sector. -/
structure Chosen (s t : Store) : Prop where
  array : t.array = s.array
  table : t.table = s.table
  queue : t.queue <:+ s.queue
  sectors : ∀ i, t.sectors.get i = s.sectors.get i ∨ (s.sectors.get i = .full ∧ t.sectors.get i = .erasing)
  compaction : t.compaction = s.compaction ∨
    ∃ i, s.sectors.get i = .erased ∧ t.compaction = some { target := i, todo := s.table, retried := false }
  failed : ∀ c, t.phase = .failed c ↔ s.phase = .failed c

theorem Chosen.refl (s : Store) : Chosen s s := ⟨rfl, rfl, List.suffix_rfl, fun _ => .inl rfl, .inl rfl, fun _ => .rfl⟩

theorem Chosen.trans {s t u : Store} (h : Chosen s t) (k : Chosen t u) : Chosen s u where
  array := k.array.trans h.array
  table := k.table.trans h.table
  queue := k.queue.trans h.queue
  sectors i := by
    rcases k.sectors i with same | ⟨full, erasing⟩
    · rw [same]
      exact h.sectors i
    · rcases h.sectors i with same | ⟨-, started⟩
      · exact .inr ⟨same ▸ full, erasing⟩
      · rw [started] at full
        cases full
  compaction := by
    rcases k.compaction with same | ⟨i, erased, new⟩
    · rw [same]
      exact h.compaction
    · refine .inr ⟨i, ?_, h.table ▸ new⟩
      rcases h.sectors i with same | ⟨-, started⟩
      · rw [← same, erased]
      · rw [started] at erased
        cases erased
  failed c := (k.failed c).trans (h.failed c)

theorem Warned.chosen {s t : Store} (h : Warned s t) : Chosen s t := by
  refine ⟨?_, ?_, ?_, fun i => .inl ?_, .inl ?_, h.failed⟩ <;> rw [h.rest]

theorem lowest_state {st : Store} {x : SectorState} {i : SectorId} (h : st.lowest x = some i) : st.sectors.get i = x := by
  rw [Store.lowest] at h
  simpa using List.find?_some h

theorem eraseStart_chosen (st : Store) : Chosen st (eraseStart st) := by
  cases low : st.lowest .full with
  | none =>
    rw [eraseStart_none low]
    exact .refl st
  | some i =>
    rw [eraseStart_some low]
    refine ⟨rfl, rfl, List.suffix_rfl, fun j => ?_, .inl rfl, fun _ => .rfl⟩
    by_cases same : j = i
    · subst same
      exact .inr ⟨lowest_state low, Four.get_set_same ..⟩
    · exact .inl (Four.get_set_other _ _ (Ne.symm same))

theorem compactionStart_chosen {s t : Store} (h : compactionStart s = some t) : Chosen s t := by
  unfold compactionStart at h
  split at h
  next c running =>
    cases h
    rw [startStep_eq]
    exact ⟨rfl, rfl, List.suffix_rfl, fun _ => .inl rfl, .inl running.symm, fun _ => .rfl⟩
  next idle =>
    split at h
    · split at h
      next i low =>
        cases h
        rw [startStep_eq]
        exact ⟨rfl, rfl, List.suffix_rfl, fun _ => .inl rfl, .inr ⟨i, lowest_state low, rfl⟩, fun _ => .rfl⟩
      next => cases h
    · cases h

theorem appendStart_chosen {s t : Store} {body : EntryBody} (h : appendStart s body = some t) : Chosen s t := by
  unfold appendStart at h
  split at h
  · split at h
    · cases h
    · cases h
      exact ⟨rfl, rfl, List.suffix_rfl, fun _ => .inl rfl, .inl rfl, fun _ => .rfl⟩
  · cases h

theorem waitFull_chosen (s : State) : Chosen s.store (waitFull s).store := by
  have waits : Chosen s.store (eraseStart { s.store with fullWait := true }) :=
    Chosen.trans (t := { s.store with fullWait := true })
      ⟨rfl, rfl, List.suffix_rfl, fun _ => .inl rfl, .inl rfl, fun _ => .rfl⟩ (eraseStart_chosen _)
  unfold waitFull
  dsimp only
  split
  · exact waits
  · rw [raise_store]
    exact waits

section
variable {told : State → State} (tells : ∀ s, Chosen s.store (told s).store)
include tells

theorem chooseFrom_chosen (n : Nat) (s : State) : Chosen s.store (chooseFrom told n s).store := by
  induction n generalizing s with
  | zero => exact .refl _
  | succ n ih =>
    unfold chooseFrom
    split
    · split
      next st start => exact compactionStart_chosen start
      next =>
        unfold chooseAppend
        split
        · exact eraseStart_chosen _
        · split
          · refine .trans (.trans (t := (dropHead s).store) ?_ (tells _)) (ih _)
            exact ⟨rfl, rfl, List.drop_suffix .., fun _ => .inl rfl, .inl rfl, fun _ => .rfl⟩
          · split
            next st start => exact appendStart_chosen start
            next =>
              split
              · exact waitFull_chosen s
              · exact eraseStart_chosen _
    · exact .refl _

theorem choose_chosen (s : State) : Chosen s.store (choose told s).store := chooseFrom_chosen tells _ s

end

theorem chooseNext_chosen (s : State) : Chosen s.store (chooseNext s).store :=
  choose_chosen (fun s => (closeIfDone_warned s).chosen) s

theorem endRecovery_chosen (s : State) : Chosen s.store (endRecovery s).store := (endRecovery_warned s).chosen

/-! ## What a choice leaves of the fault flags -/

/-- No sticky flag of `s` is clear in `t`. -/
def KeepsFlags (s t : State) : Prop := ∀ n, s.report.flags.getLsbD n = true → t.report.flags.getLsbD n = true

theorem KeepsFlags.refl (s : State) : KeepsFlags s s := fun _ h => h

theorem KeepsFlags.trans {s t u : State} (h : KeepsFlags s t) (k : KeepsFlags t u) : KeepsFlags s u := fun n x => k n (h n x)

theorem KeepsFlags.of_eq {s t : State} (h : t.report = s.report) : KeepsFlags s t := fun _ on => h.symm ▸ on

theorem keepsFlags_raise (kind : FaultKind) (ply : BitVec 3) (serial : Word) (s : State) :
    KeepsFlags s (raise kind ply serial s) := (served_raise kind ply serial s).flags

theorem keepsFlags_settle (s : State) : KeepsFlags s (settle s) := (served_settle s).flags

/-- The flag of the kind raised is set. -/
theorem raise_sets (kind : FaultKind) (ply : BitVec 3) (serial : Word) (s : State) :
    (raise kind ply serial s).report.flags.getLsbD kind.num = true := by
  rw [raise_flags, BitVec.getLsbD_or]
  cases kind <;> simp [FaultKind.bit, FaultKind.num]

/-! ## What follows an erase (R136) -/

/-- The store with an erase completed, the resource free. -/
def afterErase (i : SectorId) (r : EraseResult) (st : Store) : Store := { eraseVerified i r st with op := none }

theorem finishErase_chosen (r : EraseResult) (s : State) (works : r = .erased ∨ 2 ≤ usable s.store) :
    Chosen s.store (finishErase r s).store := by
  rw [finishErase, if_neg (by rintro ⟨ne, few⟩; rcases works with same | many; exacts [ne same, by omega]), settle_store]
  exact (endRecovery_chosen s).trans (chooseNext_chosen _)

end Sys2Proof.Machine
end

section
/-! PROOFS. The requests of the streams, and the openings and PENDING entries that make them (R15 to R18, R36, R39, R133). -/

namespace Sys2Proof.Machine
open Sys2Proof.Safety

/-! ## The streams and the store set apart -/

/-- A state with its streams and store replaced. -/
def withStock (ss : StreamUnit) (st : Store) (s : State) : State := { s with streams := ss, store := st }

theorem withStock_self (s : State) : withStock s.streams s.store s = s := rfl

theorem raise_withStock (ss : StreamUnit) (st : Store) (kind : FaultKind) (ply : BitVec 3) (serial : Word) (s : State) :
    raise kind ply serial (withStock ss st s) = withStock ss st (raise kind ply serial s) := by
  cases op : s.ctl.inOperation with
  | true =>
    rw [raise_inside op, raise_inside (s := withStock ss st s) op]
    rfl
  | false =>
    rw [raise_outside op, raise_outside (s := withStock ss st s) op]
    have same : actsAs (withStock ss st s) kind = actsAs s kind := rfl
    rw [same]
    cases actsAs s kind with
    | carryOn => rfl
    | hold =>
      change (if s.ctl.job = .run then _ else _) = withStock ss st (if s.ctl.job = .run then _ else _)
      split <;> rfl
    | halt =>
      change (if s.ctl.job = .run ∨ s.ctl.job = .hold ∨ s.ctl.job = .drain then _ else _) =
        withStock ss st (if s.ctl.job = .run ∨ s.ctl.job = .hold ∨ s.ctl.job = .drain then _ else _)
      split <;> rfl

/-! ## What requests and silent choices reach -/

/-- A state whose streams and store have changed, STORE_FAULT raised where the wait of R137 has been found. -/
inductive Stocked (s : State) : State → Prop
  | calm (ss : StreamUnit) (st : Store) (same : st.fullWait = s.store.fullWait) : Stocked s (withStock ss st s)
  | waits (ss : StreamUnit) (st : Store) (off : s.store.fullWait = false) (on : st.fullWait = true) :
      Stocked s (withStock ss st (raise .storeFault 0 0 s))

theorem Stocked.refl (s : State) : Stocked s s := .calm s.streams s.store rfl

theorem Stocked.trans {s t u : State} (h : Stocked s t) (k : Stocked t u) : Stocked s u := by
  cases h with
  | calm ss st same =>
    cases k with
    | calm ss' st' same' => exact .calm ss' st' (same'.trans same)
    | waits ss' st' off on =>
      rw [raise_withStock]
      exact .waits ss' st' (same ▸ off) on
  | waits ss st off on =>
    cases k with
    | calm ss' st' same' => exact .waits ss' st' off (same'.trans on)
    | waits ss' st' off' on' => exact absurd (off'.symm.trans on) (by decide)

theorem Stocked.store {s : State} {st : Store} (same : st.fullWait = s.store.fullWait) : Stocked s (s.setStore st) :=
  .calm s.streams st same

theorem stocked_setStream (i : StreamId) (x : StreamState) (s : State) : Stocked s (setStream i x s) := .calm _ s.store rfl

theorem startStep_fullWait (c : Compaction) (st : Store) : (startStep c st).fullWait = st.fullWait := rfl

theorem compactionStart_fullWait {s t : Store} (h : compactionStart s = some t) : t.fullWait = s.fullWait := by
  unfold compactionStart at h
  split at h
  · cases h
    rfl
  · split at h
    · split at h <;> cases h
      rfl
    · cases h

theorem appendStart_fullWait {s t : Store} {body : EntryBody} (h : appendStart s body = some t) :
    t.fullWait = s.fullWait := by
  unfold appendStart at h
  split at h
  · split at h <;> cases h
    rfl
  · cases h

theorem eraseStart_fullWait (st : Store) : (eraseStart st).fullWait = st.fullWait := by
  unfold eraseStart
  split <;> rfl

theorem stocked_waitFull (s : State) : Stocked s (waitFull s) := by
  have on : (eraseStart { s.store with fullWait := true }).fullWait = true := eraseStart_fullWait _
  unfold waitFull
  dsimp only
  split
  next was => exact .store (on.trans was.symm)
  next off =>
    have raised := raise_withStock s.streams (eraseStart { s.store with fullWait := true }) .storeFault 0 0 s
    rw [show s.setStore _ = withStock s.streams (eraseStart { s.store with fullWait := true }) s from rfl, raised]
    exact .waits _ _ (Bool.eq_false_iff.2 off) on

theorem stocked_chooseFrom (n : Nat) (s : State) : Stocked s (chooseFrom id n s) := by
  induction n generalizing s with
  | zero => exact .refl s
  | succ n ih =>
    unfold chooseFrom
    split
    · split
      next st start => exact .store (compactionStart_fullWait start)
      next =>
        unfold chooseAppend
        split
        · exact .store (eraseStart_fullWait _)
        · split
          · exact .trans (t := dropHead s) (.store rfl) (ih _)
          · split
            next st start => exact .store (appendStart_fullWait start)
            next =>
              split
              · exact stocked_waitFull s
              · exact .store (eraseStart_fullWait _)
    · exact .refl s

theorem stocked_joinQueue (r : Request) (s : State) : Stocked s (joinQueue r s) :=
  Stocked.trans (t := s.setStore { s.store with queue := s.store.queue ++ [r] }) (.store rfl) (stocked_chooseFrom _ _)

theorem stocked_request (i : StreamId) (d : StreamDesc) (l : Word) (s : State) : Stocked s (request i d l s) := by
  unfold request
  dsimp only
  split
  · exact stocked_setStream ..
  · exact (stocked_setStream ..).trans (stocked_joinQueue ..)

theorem Stocked.frame {s u : State} (h : Stocked s u) : RequestFrame s u := by
  cases h with
  | calm ss st same =>
    exact ⟨rfl, fun _ => ⟨rfl, rfl, rfl⟩, fun off on => absurd (off.symm.trans (same.symm.trans on)) (by decide)⟩
  | waits ss st off on =>
    refine ⟨?_, fun same => absurd (off.symm.trans (same.symm.trans on)) (by decide), fun _ _ => ⟨rfl, rfl, rfl⟩⟩
    obtain ⟨p, j, r, h⟩ := raise_changes .storeFault 0 0 s
    rw [h]
    rfl

/-! ## One request -/

/-- Every request of a queue writes an entry: no close append of a book without a row stands in it. -/
abbrev AllWritable (st : Store) : Prop := ∀ r ∈ st.queue, (appendBody st r).isSome = true

theorem appendBody_congr {s t : Store} (table : t.table = s.table) (r : Request) : appendBody t r = appendBody s r := by
  cases r <;> simp [appendBody, Store.row, table]

/-- Where the head request can be written, a choice leaves the queue as it is. -/
theorem chooseFrom_writable (told : State → State) (n : Nat) {s : State} (writable : AllWritable s.store) :
    (chooseFrom told n s).store.queue = s.store.queue := by
  cases n with
  | zero => rfl
  | succ n =>
    unfold chooseFrom
    split
    · split
      next st start =>
        unfold compactionStart at start
        repeat' split at start
        all_goals first | (cases start; rfl) | cases start
      next =>
        have erased : ∀ st : Store, (eraseStart st).queue = st.queue := by
          intro st
          unfold eraseStart
          split <;> rfl
        unfold chooseAppend
        split
        · exact erased _
        next r head =>
          have some_body := writable r (List.mem_of_mem_head? head)
          split
          next rowless => rw [rowless] at some_body; cases some_body
          next body _ =>
            split
            next st start =>
              unfold appendStart at start
              repeat' split at start
              all_goals first | (cases start; rfl) | cases start
            next =>
              split
              · unfold waitFull
                dsimp only
                split
                · exact erased _
                · rw [raise_store]
                  exact erased _
              · exact erased _
    · rfl

theorem refuses_works {st : Store} (works : ∀ c, st.phase ≠ .failed c) :
    refuses st = decide (40 ≤ st.queue.length) := by
  unfold refuses
  cases phase : st.phase with
  | failed c => exact absurd phase (works c)
  | recovering | inService => exact Bool.or_false _

theorem refuses_failed {st : Store} {c : FailCause} (failed : st.phase = .failed c) : refuses st = true := by
  simp [refuses, failed]

theorem chooseFrom_id_streams (n : Nat) (s : State) : (chooseFrom id n s).streams = s.streams := by
  induction n generalizing s with
  | zero => rfl
  | succ n ih =>
    unfold chooseFrom
    split
    · split
      · rfl
      · unfold chooseAppend
        split
        · rfl
        · split
          · exact ih _
          · split
            · rfl
            · split
              · unfold waitFull
                dsimp only
                split
                · rfl
                · rw [raise_streams]
                  rfl
              · rfl
    · rfl

theorem joinQueue_streams (r : Request) (s : State) : (joinQueue r s).streams = s.streams := chooseFrom_id_streams ..

theorem joinQueue_chosen (r : Request) (s : State) :
    Chosen { s.store with queue := s.store.queue ++ [r] } (joinQueue r s).store := 
  choose_chosen (told := id) (fun _ => .refl _) (s.setStore { s.store with queue := s.store.queue ++ [r] })

/-- What one request, for a limit, makes of the streams and a store in service. -/
structure RequestMade (i : StreamId) (r : Request) (l : Word) (s u : State) : Prop where
  generator : u.streams.generator = s.streams.generator
  self : streamAt u i = askedStream (some l) (decide (s.store.queue.length < 40)) (streamAt s i)
  others : ∀ j, j ≠ i → streamAt u j = streamAt s j
  array : u.store.array = s.store.array
  table : u.store.table = s.store.table
  failed : ∀ c, u.store.phase = .failed c ↔ s.store.phase = .failed c
  queue : u.store.queue.length ≤ s.store.queue.length + 1
  writable : AllWritable s.store →
    u.store.queue = s.store.queue ++ if s.store.queue.length < 40 then [r] else []

section
variable (i : StreamId) (d : StreamDesc) (l : Word) {s : State}

theorem request_refused (h : refuses s.store = true) :
    request i d l s = setStream i (askedStream (some l) false (streamAt s i)) s := if_pos h

theorem request_accepted (h : refuses s.store = false) : request i d l s =
    joinQueue (.reservation i d.book d.dir l) (setStream i (askedStream (some l) true (streamAt s i)) s) :=
  if_neg (by rw [h]; decide)

end

theorem streamAt_setStream_same (i : StreamId) (x : StreamState) (s : State) : streamAt (setStream i x s) i = x :=
  Four.get_set_same ..

theorem streamAt_setStream_other {i j : StreamId} (h : j ≠ i) (x : StreamState) (s : State) :
    streamAt (setStream i x s) j = streamAt s j := Four.get_set_other _ _ (Ne.symm h)

theorem request_made (i : StreamId) (d : StreamDesc) (l : Word) {s : State} (works : ∀ c, s.store.phase ≠ .failed c) :
    RequestMade i (.reservation i d.book d.dir l) l s (request i d l s) := by
  have refusal := refuses_works works
  by_cases room : s.store.queue.length < 40
  · rw [request_accepted i d l (by rw [refusal]; simpa using room)]
    generalize hx : askedStream (some l) true (streamAt s i) = x
    have streams : (joinQueue (.reservation i d.book d.dir l) (setStream i x s)).streams = (setStream i x s).streams :=
      joinQueue_streams ..
    have chosen := joinQueue_chosen (.reservation i d.book d.dir l) (setStream i x s)
    have at_stream : ∀ j, streamAt (joinQueue (.reservation i d.book d.dir l) (setStream i x s)) j =
        streamAt (setStream i x s) j := fun j => by rw [streamAt, streams]; rfl
    refine ⟨by rw [streams]; rfl, ?_, fun j other => ?_, chosen.array, chosen.table, chosen.failed, ?_, fun writable => ?_⟩
    · rw [at_stream, streamAt_setStream_same, decide_eq_true room, hx]
    · rw [at_stream, streamAt_setStream_other other]
    · have := chosen.queue.length_le
      simpa [setStream] using this
    · rw [if_pos room]
      refine (chooseFrom_writable id _ ?_).trans rfl
      intro r hr
      rcases List.mem_append.1 hr with hr | hr
      · exact (congrArg Option.isSome (appendBody_congr rfl r)).trans (writable r hr)
      · rw [List.mem_singleton.1 hr, appendBody]
        split <;> rfl
  · rw [request_refused i d l (by rw [refusal]; simpa using room)]
    refine ⟨rfl, ?_, fun j other => streamAt_setStream_other other _ _, rfl, rfl, fun _ => .rfl, Nat.le_succ _, fun _ => ?_⟩
    · rw [streamAt_setStream_same, decide_eq_false room]
    · rw [if_neg room, List.append_nil]
      rfl

/-! ## The requests of several streams -/

/-- A stream asks for the limit its own record gives by a rule, if any. -/
def askBy (t : Ticket) (rule : StreamId → StreamState → Option Word) (s : State) (i : StreamId) : State :=
  match rule i (streamAt s i) with
  | some l => request i (t.streams.get i) l s
  | none => s

/-- The requests streams ask for, each after those before it. -/
def asksOf (t : Ticket) (ask : StreamId → Option Word) (is : List StreamId) : List Request :=
  is.filterMap fun i => (ask i).map fun l => .reservation i (t.streams.get i).book (t.streams.get i).dir l

/-- What the requests of several streams make of the streams and a store in service: each finds room by those before it. -/
structure RequestsMade (t : Ticket) (ask : StreamId → Option Word) (is : List StreamId) (s u : State) : Prop where
  generator : u.streams.generator = s.streams.generator
  array : u.store.array = s.store.array
  table : u.store.table = s.store.table
  failed : ∀ c, u.store.phase = .failed c ↔ s.store.phase = .failed c
  others : ∀ j, j ∉ is → streamAt u j = streamAt s j
  each : s.store.queue.length + is.length ≤ 40 ∨ AllWritable s.store → ∀ j ∈ is, streamAt u j =
    askedStream (ask j) (decide (s.store.queue.length + (asksOf t ask (is.takeWhile (· != j))).length < 40)) (streamAt s j)
  queue : AllWritable s.store → u.store.queue = s.store.queue ++ (asksOf t ask is).take (40 - s.store.queue.length)

theorem asksOf_length_le (t : Ticket) (ask : StreamId → Option Word) (is : List StreamId) :
    (asksOf t ask is).length ≤ is.length := List.length_filterMap_le ..

theorem asksOf_congr (t : Ticket) {ask ask' : StreamId → Option Word} {is : List StreamId} (h : ∀ i ∈ is, ask' i = ask i) :
    asksOf t ask' is = asksOf t ask is := List.filterMap_congr fun i hi => by rw [h i hi]

theorem takeWhile_ne_length {i : StreamId} {is : List StreamId} (mem : i ∈ is) :
    (is.takeWhile (· != i)).length < is.length := by
  induction is with
  | nil => cases mem
  | cons j is ih =>
    by_cases same : j = i
    · simp [same]
    · have later : i ∈ is := (List.mem_cons.1 mem).resolve_left (Ne.symm same)
      simpa [List.takeWhile_cons, same] using ih later

section
variable (t : Ticket) (rule : StreamId → StreamState → Option Word)

/-- A stream that asks for nothing changes nothing. -/
theorem askBy_none {s : State} {i : StreamId} (h : rule i (streamAt s i) = none) : askBy t rule s i = s := by
  rw [askBy, h]

theorem askBy_some {s : State} {i : StreamId} {l : Word} (h : rule i (streamAt s i) = some l) :
    askBy t rule s i = request i (t.streams.get i) l s := by
  rw [askBy, h]

theorem asksBy_made {is : List StreamId} (nodup : is.Nodup) {s : State} (works : ∀ c, s.store.phase ≠ .failed c) :
    RequestsMade t (fun i => rule i (streamAt s i)) is s (is.foldl (askBy t rule) s) := by
  induction is generalizing s with
  | nil => exact ⟨rfl, rfl, rfl, fun _ => .rfl, fun _ _ => rfl, fun _ _ h => (by cases h), fun _ => by simp [asksOf]⟩
  | cons i is ih =>
    obtain ⟨new, nodup⟩ := List.nodup_cons.1 nodup
    rw [List.foldl_cons]
    cases asks : rule i (streamAt s i) with
    | none =>
      rw [askBy_none t rule asks]
      have rest := ih nodup works
      have skip : ∀ js, asksOf t (fun i => rule i (streamAt s i)) (i :: js) = asksOf t (fun i => rule i (streamAt s i)) js :=
        fun js => by simp [asksOf, asks]
      refine ⟨rest.generator, rest.array, rest.table, rest.failed, fun j hj => rest.others j (by simp at hj; exact hj.2),
        fun room j hj => ?_, fun writable => ?_⟩
      · by_cases same : j = i
        · subst same
          rw [rest.others j new, asks]
          rfl
        · have later : j ∈ is := (List.mem_cons.1 hj).resolve_left same
          rw [rest.each (room.imp_left fun h => by simp at h; omega) j later, List.takeWhile_cons_of_pos (by simpa using Ne.symm same),
            skip]
      · rw [rest.queue writable, skip]
    | some l =>
      rw [askBy_some t rule asks]
      have made := request_made i (t.streams.get i) l works
      generalize request i (t.streams.get i) l s = v at made
      have rest := ih nodup (s := v) fun c failed => works c ((made.failed c).1 failed)
      have same_asks : ∀ j ∈ is, rule j (streamAt v j) = rule j (streamAt s j) := fun j hj => by
        rw [made.others j fun same => new (same ▸ hj)]
      have first : ∀ js, (∀ j ∈ js, j ∈ is) → asksOf t (fun i => rule i (streamAt s i)) (i :: js) =
          .reservation i (t.streams.get i).book (t.streams.get i).dir l :: asksOf t (fun i => rule i (streamAt v i)) js :=
        fun js sub => by
          rw [asksOf_congr t (ask' := fun i => rule i (streamAt v i)) (ask := fun i => rule i (streamAt s i))
            fun j hj => same_asks j (sub j hj)]
          simp [asksOf, asks]
      have still : AllWritable s.store → AllWritable v.store := fun writable r hr => by
        rw [made.writable writable] at hr
        rw [appendBody_congr made.table]
        rcases List.mem_append.1 hr with hr | hr
        · exact writable r hr
        · split at hr
          · rw [List.mem_singleton.1 hr, appendBody]
            split <;> rfl
          · cases hr
      refine ⟨rest.generator.trans made.generator, rest.array.trans made.array, rest.table.trans made.table,
        fun c => (rest.failed c).trans (made.failed c), fun j hj => ?_, fun room j hj => ?_, fun writable => ?_⟩
      · obtain ⟨other, later⟩ : j ≠ i ∧ j ∉ is := by simpa using hj
        rw [rest.others j later, made.others j other]
      · by_cases same : j = i
        · subst same
          rw [rest.others j new, made.self, List.takeWhile_cons_of_neg (by simp), asks]
          rfl
        · have later : j ∈ is := (List.mem_cons.1 hj).resolve_left same
          have room' : v.store.queue.length + is.length ≤ 40 ∨ AllWritable v.store := by
            refine room.imp (fun h => ?_) still
            have := made.queue
            simp at h
            omega
          rw [rest.each room' j later, made.others j same,
            List.takeWhile_cons_of_pos (by simpa using Ne.symm same),
            first _ fun k hk => List.takeWhile_subset _ hk, List.length_cons]
          congr 1
          rw [decide_eq_decide]
          have few := asksOf_length_le t (fun i => rule i (streamAt v i)) (is.takeWhile (· != j))
          have fewer := takeWhile_ne_length later
          rcases room with room | writable
          · have := made.queue
            simp at room
            omega
          · rw [made.writable writable]
            split
            · simp
              omega
            · simp
              omega
      · rw [rest.queue (still writable), first is fun _ h => h, made.writable writable]
        split
        next room =>
          rw [List.append_assoc, List.length_append, List.length_singleton,
            show 40 - s.store.queue.length = 40 - (s.store.queue.length + 1) + 1 by omega, List.take_succ_cons]
          rfl
        next full =>
          rw [List.append_nil, show 40 - s.store.queue.length = 0 by omega, List.take_zero, List.take_zero]

theorem Four.set_get_self {α : Type} (v : Four α) (i : Fin 4) : v.set i (v.get i) = v := by fin_cases i <;> rfl

theorem asksBy_failed {is : List StreamId} (nodup : is.Nodup) {s : State} {c : FailCause} (failed : s.store.phase = .failed c) :
    (is.foldl (askBy t rule) s).store = s.store ∧
    (is.foldl (askBy t rule) s).streams.generator = s.streams.generator ∧
    (∀ j, j ∉ is → streamAt (is.foldl (askBy t rule) s) j = streamAt s j) ∧
    ∀ j ∈ is, streamAt (is.foldl (askBy t rule) s) j = askedStream (rule j (streamAt s j)) false (streamAt s j) := by
  induction is generalizing s with
  | nil => exact ⟨rfl, rfl, fun _ _ => rfl, fun _ h => by cases h⟩
  | cons i is ih =>
    obtain ⟨new, nodup⟩ := List.nodup_cons.1 nodup
    have one : askBy t rule s i = setStream i (askedStream (rule i (streamAt s i)) false (streamAt s i)) s := by
      cases asks : rule i (streamAt s i) with
      | none =>
        rw [askBy_none t rule asks]
        exact (congrArg (fun e => s.setStreams { s.streams with each := e }) (Four.set_get_self _ _)).symm
      | some l => rw [askBy_some t rule asks, request_refused i _ l (refuses_failed failed)]
    rw [List.foldl_cons, one]
    generalize hx : askedStream (rule i (streamAt s i)) false (streamAt s i) = x
    obtain ⟨store, generator, others, each⟩ := ih nodup (s := setStream i x s) failed
    refine ⟨store, generator, fun j hj => ?_, fun j hj => ?_⟩
    · obtain ⟨other, later⟩ : j ≠ i ∧ j ∉ is := by simpa using hj
      rw [others j later, streamAt_setStream_other other]
    · by_cases same : j = i
      · subst same
        rw [others j new, streamAt_setStream_same, hx]
      · rw [each j ((List.mem_cons.1 hj).resolve_left same), streamAt_setStream_other same]

theorem stocked_askBy (s : State) (i : StreamId) : Stocked s (askBy t rule s i) := by
  unfold askBy
  split
  · exact stocked_request ..
  · exact .refl s

theorem stocked_asksBy (is : List StreamId) (s : State) : Stocked s (is.foldl (askBy t rule) s) := by
  induction is generalizing s with
  | nil => exact .refl s
  | cons i is ih => exact (stocked_askBy t rule s i).trans (ih _)

/-- The requests of all four streams, in the statements' words. -/
theorem asksBy_requested (s : State) :
    Requested t (fun i => rule i (streamAt s i)) s (fours.foldl (askBy t rule) s) := by
  have nodup : fours.Nodup := by decide
  have before : ∀ i : StreamId, (asksOf t (fun i => rule i (streamAt s i)) (fours.takeWhile (· != i))).length =
      (fours.filter fun j => decide (j < i) && (rule j (streamAt s j)).isSome).length := fun i => by
    have lower : fours.takeWhile (· != i) = fours.filter fun j => decide (j < i) := by
      revert i
      decide
    rw [lower, asksOf, List.length_filterMap_eq_countP, List.countP_filter, List.countP_eq_length_filter]
    simp [Bool.and_comm]
  refine ⟨?_, fun works room => ?_, fun works writable => ?_, fun ⟨c, failed⟩ => ?_⟩
  · by_cases failed : ∃ c, s.store.phase = .failed c
    · obtain ⟨c, failed⟩ := failed
      exact (asksBy_failed t rule nodup failed).2.1
    · exact (asksBy_made t rule nodup (not_exists.1 failed)).generator
  · have made := asksBy_made t rule nodup works
    refine ⟨fun i => ?_, made.table, made.array⟩
    rw [made.each (room.imp_left fun h => by change _ + 4 ≤ 40; omega) i (mem_fours i), before]
  · exact (asksBy_made t rule nodup works).queue writable
  · obtain ⟨store, -, -, each⟩ := asksBy_failed t rule nodup failed
    exact ⟨store, fun i => each i (mem_fours i)⟩

end

/-! ## The rules of the requests (R7, R15, R16) -/

/-- The limit R16 asks for on a stream's record. -/
def renewalRule (t : Ticket) (i : StreamId) (x : StreamState) : Option Word :=
  if Booked t i then renewalDue (t.streams.get i) x else none

/-- The limit START asks for on a stream's record (R15, R16). -/
def startRule (t : Ticket) (i : StreamId) (x : StreamState) : Option Word :=
  if Booked t i ∧ x.status = .live ∧ x.inFlight = false then
    match x.limit with
    | none => some (initialLimit (t.streams.get i) x.v)
    | some _ => renewalRule t i x
  else none

/-- The limit an UNCOVERED answer asks for on a stream's record (R7). -/
def uncoveredRule (t : Ticket) (i : StreamId) (x : StreamState) : Option Word :=
  if (t.booked i && !covered (t.streams.get i) x) = true ∧ x.inFlight = false then startRule t i x else none

theorem renewalAsked_eq (t : Ticket) (s : State) (i : StreamId) : renewalAsked t s i = renewalRule t i (streamAt s i) := rfl

theorem startLimit_eq (t : Ticket) (s : State) (i : StreamId) : startLimit t s i = startRule t i (streamAt s i) := by
  unfold startLimit startRule
  cases (streamAt s i).limit <;> rfl

theorem uncoveredLimit_eq (t : Ticket) (s : State) (i : StreamId) :
    uncoveredLimit t s i = uncoveredRule t i (streamAt s i) := by
  have lacks : Lacks t s i ↔ needsLimit t s i = true := by
    rw [needsLimit_iff]
    refine and_congr_right fun _ => ?_
    cases (streamAt s i).limit <;> simp
  rw [uncoveredLimit, uncoveredRule, startLimit_eq]
  exact if_congr (and_congr_left' lacks) rfl rfl

theorem testRenewal_eq (t : Ticket) (i : StreamId) (s : State) : testRenewal t i s = askBy t (renewalRule t) s i := by
  unfold testRenewal
  split
  next booked =>
    have rule : renewalRule t i (streamAt s i) = renewalDue (t.streams.get i) (streamAt s i) :=
      if_pos ((booked_iff t i).1 booked)
    split
    next l due => rw [askBy_some t _ (rule.trans due)]
    next none => rw [askBy_none t _ (rule.trans none)]
  next other =>
    rw [askBy_none]
    exact if_neg fun booked => other ((booked_iff t i).2 booked)

theorem askReservation_eq (t : Ticket) (i : StreamId) (s : State) : askReservation t i s = askBy t (startRule t) s i := by
  have asks : (t.booked i && (streamAt s i).status == .live && !(streamAt s i).inFlight) = true ↔
      Booked t i ∧ (streamAt s i).status = .live ∧ (streamAt s i).inFlight = false := by
    simp [booked_iff, and_assoc]
  unfold askReservation
  dsimp only
  split
  next due =>
    rw [asks] at due
    cases limit : (streamAt s i).limit with
    | none => rw [askBy_some (l := initialLimit (t.streams.get i) (streamAt s i).v)]
              rw [startRule, if_pos due, limit]
    | some l =>
      have rule : startRule t i (streamAt s i) = renewalRule t i (streamAt s i) := by rw [startRule, if_pos due, limit]
      dsimp only
      rw [testRenewal_eq, askBy, askBy, rule]
  next idle =>
    rw [asks] at idle
    rw [askBy_none]
    exact if_neg idle

theorem uncovered_askBy (t : Ticket) (i : StreamId) (s : State) :
    (if (needsLimit t s i && !(streamAt s i).inFlight) = true then askReservation t i s else s) =
      askBy t (uncoveredRule t) s i := by
  have lacks : (needsLimit t s i && !(streamAt s i).inFlight) = true ↔
      (t.booked i && !covered (t.streams.get i) (streamAt s i)) = true ∧ (streamAt s i).inFlight = false := by
    simp [needsLimit]
  split
  next h =>
    have rule : uncoveredRule t i (streamAt s i) = startRule t i (streamAt s i) := if_pos (lacks.1 h)
    rw [askReservation_eq, askBy, askBy, rule]
  next h =>
    rw [askBy_none]
    exact if_neg fun k => h (lacks.2 k)

/-- Streams that are not active ask for nothing, so the active ones stand for all four. -/
theorem foldl_activeStreams (t : Ticket) (rule : StreamId → StreamState → Option Word)
    (inactive : ∀ i x, (t.streams.get i).active = false → rule i x = none) (s : State) :
    t.activeStreams.foldl (askBy t rule) s = fours.foldl (askBy t rule) s := by
  rw [Ticket.activeStreams, List.foldl_filter]
  congr 1
  funext u i
  split
  · rfl
  next off => rw [askBy_none t rule (inactive i _ (Bool.eq_false_iff.2 off))]

theorem not_booked_of_inactive {t : Ticket} {i : StreamId} (h : (t.streams.get i).active = false) : ¬Booked t i :=
  fun booked => absurd (h.symm.trans booked.1) (by decide)

theorem drawnRequests_eq (t : Ticket) (s : State) : drawnRequests t s = fours.foldl (askBy t (renewalRule t)) s := by
  rw [← foldl_activeStreams t (renewalRule t) fun i x off => if_neg (not_booked_of_inactive off)]
  unfold drawnRequests
  congr 1
  funext u i
  exact testRenewal_eq t i u

theorem startReservations_eq (t : Ticket) (s : State) : startReservations t s = fours.foldl (askBy t (startRule t)) s := by
  unfold startReservations
  congr 1
  funext u i
  exact askReservation_eq t i u

theorem uncoveredRequests_eq (t : Ticket) (s : State) :
    uncoveredRequests t s = fours.foldl (askBy t (uncoveredRule t)) s := by
  rw [← foldl_activeStreams t _ fun i x off => ?_]
  · unfold uncoveredRequests
    congr 1
    funext u i
    exact uncovered_askBy t i u
  · have := (booked_false_iff t i).2 (not_booked_of_inactive off)
    exact if_neg (by simp [this])

theorem drawnRequests_requested (t : Ticket) (s : State) : Requested t (renewalAsked t s) s (drawnRequests t s) := by
  rw [drawnRequests_eq]
  exact asksBy_requested t (renewalRule t) s

theorem drawnRequests_stocked (t : Ticket) (s : State) : Stocked s (drawnRequests t s) := by
  rw [drawnRequests_eq]
  exact stocked_asksBy ..

theorem startReservations_requested (t : Ticket) (s : State) : Requested t (startLimit t s) s (startReservations t s) := by
  rw [startReservations_eq, show startLimit t s = fun i => startRule t i (streamAt s i) from funext (startLimit_eq t s)]
  exact asksBy_requested t (startRule t) s

theorem startReservations_stocked (t : Ticket) (s : State) : Stocked s (startReservations t s) := by
  rw [startReservations_eq]
  exact stocked_asksBy ..

theorem uncoveredRequests_requested (t : Ticket) (s : State) :
    Requested t (uncoveredLimit t s) s (uncoveredRequests t s) := by
  rw [uncoveredRequests_eq, show uncoveredLimit t s = fun i => uncoveredRule t i (streamAt s i) from
    funext (uncoveredLimit_eq t s)]
  exact asksBy_requested t (uncoveredRule t) s

theorem uncoveredRequests_stocked (t : Ticket) (s : State) : Stocked s (uncoveredRequests t s) := by
  rw [uncoveredRequests_eq]
  exact stocked_asksBy ..

/-! ## The draw of a set (R36, R39) -/

section
variable (t : Ticket) {s : State}

theorem drawForSet_exhausted (h : drawAnswer t s = .exhausted ∨ s.pipe.opened = 0xFFFFFFFF) :
    drawForSet t s = (.exhausted, .const none, s) := by
  unfold drawForSet
  split
  · rfl
  next more =>
    rw [h.resolve_right more]

theorem drawForSet_waiting (more : s.pipe.opened ≠ 0xFFFFFFFF) (h : drawAnswer t s = .waiting) :
    drawForSet t s = (.waiting, .const none, s) := by
  rw [drawForSet, if_neg (show ¬s.pipe.opened = BitVec.allOnes 32 from more), h]

theorem drawForSet_uncovered (more : s.pipe.opened ≠ 0xFFFFFFFF) (h : drawAnswer t s = .uncovered) :
    drawForSet t s = (.uncovered, .const none, s) := by
  rw [drawForSet, if_neg (show ¬s.pipe.opened = BitVec.allOnes 32 from more), h]

theorem drawForSet_drawn (more : s.pipe.opened ≠ 0xFFFFFFFF) (h : drawAnswer t s = .drawn) :
    drawForSet t s = (.drawn, (drawAll t s.streams).1, s.setStreams (drawAll t s.streams).2) := by
  rw [drawForSet, if_neg (show ¬s.pipe.opened = BitVec.allOnes 32 from more), h]

theorem opening_fresh (run : s.ctl.job = .run) (none : s.spoil.remakes = []) : opening t s = freshOpening t s := by
  rw [opening, if_pos run, none]

end

section
variable {t : Ticket} {s : State}

theorem resolvePending_none (h : s.ticket.active = none ∨ s.ctl.job ≠ .run ∨ pendingAtZero s = false) :
    resolvePending s = s := by
  unfold resolvePending
  split
  next t stamp causes plies active pending =>
    rcases h with h | h | h
    · rw [active] at h
      cases h
    · exact if_neg h
    · rw [pendingAtZero, pending] at h
      cases h
  next => rfl

theorem entryAt_zero {e : Entry} (h : s.pipe.entries[0]? = some e) : entryAt s 0 = e := by
  simp [entryAt, List.getD_eq_getElem?_getD, h]

variable {stamp : Word} {cs : BitVec 14} {ps : BitVec 6}

theorem resolvePending_pending (active : s.ticket.active = some t) (run : s.ctl.job = .run)
    (pending : s.pipe.entries[0]? = some (.pending stamp cs ps)) : resolvePending s = match (drawForSet t s).1 with
      | .drawn => drawRequests t .drawn (replaceZero (.set (openedSet (countOpened (drawForSet t s).2.2).pipe.opened 1
          (drawForSet t s).2.1 stamp cs ps)) (countOpened (drawForSet t s).2.2))
      | .waiting => (drawForSet t s).2.2
      | .uncovered => raise .storeFault 0 0 (drawRequests t .uncovered (blankPending (drawForSet t s).2.2))
      | .exhausted => claim .exhausted (blankPending (drawForSet t s).2.2) := by
  unfold resolvePending
  rw [active, entryAt_zero pending]
  exact (if_pos run).trans rfl

end

/-- Settles O43, by the source of the opening and by the answer to its draw. -/
theorem openingBySource : Obligations.OpeningBySource := by
  intro t s
  refine ⟨fun other => if_neg other, fun run x rest remakes => ?_, fun run none => ⟨fun h => ?_, fun more => ⟨fun h => ?_,
    fun h => ?_, fun h => ?_⟩⟩, resolvePending_none, fun active run stamp cs ps pending => ⟨fun h => ?_,
    fun more => ⟨fun h => ?_, fun h => ?_, fun h => ?_⟩⟩, drawnRequests_requested t s, (drawnRequests_stocked t s).frame,
    uncoveredRequests_requested t s, (uncoveredRequests_stocked t s).frame⟩
  · rw [opening, if_pos run, remakes]
    rfl
  · rw [opening_fresh t run none, freshOpening, drawForSet_exhausted t h]
  · rw [opening_fresh t run none, freshOpening, drawForSet_waiting t more h]
  · rw [opening_fresh t run none, freshOpening, drawForSet_uncovered t more h]
    rfl
  · rw [opening_fresh t run none, freshOpening, drawForSet_drawn t more h]
    rfl
  · rw [resolvePending_pending active run pending, drawForSet_exhausted t h]
    dsimp only
    rw [blankPending_eq]
  · rw [resolvePending_pending active run pending, drawForSet_waiting t more h]
  · rw [resolvePending_pending active run pending, drawForSet_uncovered t more h]
    dsimp only
    rw [blankPending_eq]
    rfl
  · rw [resolvePending_pending active run pending, drawForSet_drawn t more h]
    have zero : ∀ e, s.pipe.entries.modify 0 (fun _ => e) = s.pipe.entries.set 0 e := fun e => by
      cases entries : s.pipe.entries with
      | nil => rw [entries] at pending; cases pending
      | cons x xs => rfl
    refine congrArg (drawnRequests t) ?_
    unfold replaceZero countOpened State.setEntries State.setPipe State.setStreams
    dsimp only
    rw [zero]
    rfl

end Sys2Proof.Machine
end

section
/-! PROOFS. The commands RETIRE and ABORT, and LOAD's acceptance (R102, R120, R147, R160). -/

namespace Sys2Proof.Machine
open Sys2Proof.Safety

/-! ## RETIRE and the queue it joins (R133, R134, R147) -/

/-- With no CLOSE in progress a choice has nobody to tell. -/
theorem chooseFrom_told {s : State} (open_job : s.ctl.job ≠ .closing) (n : Nat) :
    chooseFrom closeIfDone n s = chooseFrom id n s := by
  have untold : ∀ x : State, x.ctl.job ≠ .closing → closeIfDone x = x := by
    intro x other
    unfold closeIfDone
    split
    · exact if_neg fun h => other h.2.1
    · rfl
  induction n generalizing s with
  | zero => rfl
  | succ n ih =>
    have again : chooseFrom closeIfDone n (closeIfDone (dropHead s)) = chooseFrom id n (id (dropHead s)) := by
      rw [untold _ (show (dropHead s).ctl.job ≠ .closing from open_job)]
      exact ih (s := dropHead s) open_job
    unfold chooseFrom
    split
    · split
      · rfl
      · unfold chooseAppend
        split
        · rfl
        · split
          · exact again
          · rfl
    · rfl

theorem joinQueue_eq_chooseNext {s : State} (open_job : s.ctl.job ≠ .closing) (r : Request) :
    joinQueue r s = chooseNext { s with store := { s.store with queue := s.store.queue ++ [r] } } :=
  (chooseFrom_told (s := { s with store := { s.store with queue := s.store.queue ++ [r] } }) open_job _).symm

/-- The store is free for the queue: no compaction stands before it. -/
theorem compactionStart_freeFor {st : Store} {a : SectorId} (free : FreeFor st a) : compactionStart st = none := by
  obtain ⟨-, -, -, -, idle, active, room⟩ := free
  refine compactionStart_none idle (.inl ?_)
  rw [Bool.eq_false_iff, Ne, compactionNeeded_iff idle, active]
  rintro (h | ⟨b, h, low⟩)
  · cases h
  · cases h
    omega

theorem mayStart_freeFor {st : Store} {a : SectorId} (free : FreeFor st a) : mayStart st = true :=
  (mayStart_iff st).2 ⟨free.2.1, free.2.2.1, free.2.2.2.1, free.1⟩

/-- A store free for the queue starts the append at its head. -/
theorem choose_freeFor {told : State → State} {s : State} {a : SectorId} {r : Request} {rest : List Request}
    {body : EntryBody} (free : FreeFor s.store a) (queue : s.store.queue = r :: rest)
    (hb : appendBody s.store r = some body) : choose told s = s.setStore (appendStarted s.store a body) := by
  refine choose_appends (mayStart_freeFor free) (compactionStart_freeFor free) queue hb
    (appendStart_some body free.2.2.2.2.2.1 ?_)
  have := free.2.2.2.2.2.2
  omega

theorem joinQueue_blocked {r : Request} {s : State} (h : s.store.op ≠ none ∨ s.store.quiesced = true ∨
    (∃ c, s.store.phase = .failed c) ∨ s.store.scanMade = false) :
    joinQueue r s = { s with store := { s.store with queue := s.store.queue ++ [r] } } := by
  refine joinQueue_of_not_mayStart ?_
  rw [Bool.eq_false_iff, Ne, mayStart_iff]
  rintro ⟨op, quiesced, phase, scanMade⟩
  rcases h with h | h | ⟨c, h⟩ | h
  · exact h op
  · rw [quiesced] at h; cases h
  · exact phase c h
  · rw [scanMade] at h; cases h

theorem inputActive_keysvc (s : State) : inputActive s inKeysvc = s.lines.accepted.getLsbD 16 := by
  simp [inputActive, setting, settingUnder, keySetting, inKeysvc, level]

section
variable (tag : Byte) {x : State}

theorem retireCommand_state (busy : x.ctl.job ≠ .idle) : retireCommand tag x = answer 9 tag .state 0 (jobDetail x) x :=
  if_pos busy

variable (idle : x.ctl.job = .idle)
include idle

theorem retireCommand_off (off : x.lines.accepted.getLsbD 16 = false) :
    retireCommand tag x = answer 9 tag .serviceOff 0 0 x :=
  (if_neg fun h => h idle).trans (if_pos ((inputActive_keysvc x).trans off))

variable (key : x.lines.accepted.getLsbD 16 = true)
include key

theorem retireCommand_away (away : x.store.phase ≠ .inService) :
    retireCommand tag x = answer 9 tag .storeUnavailable 0 (storeDetail x) x := by
  refine (if_neg fun h => h idle).trans ((if_neg (by rw [inputActive_keysvc, key]; decide)).trans (if_pos ?_))
  split
  next serves => exact absurd serves away
  next => rfl

variable (serves : x.store.phase = .inService)
include serves

theorem retireCommand_serves : retireCommand tag x =
    if x.ticket.arg1 = 0 then answer 9 tag .notFound 0 0 x
    else match x.store.row x.ticket.arg1 with
      | none => answer 9 tag .notFound 0 0 x
      | some r =>
        if r.opened then answer 9 tag .state 0 (jobDetail x) x
        else if refuses x.store then answer 9 tag .storeUnavailable 0 (storeDetail x) x
        else acceptRetire tag x := by
  refine (if_neg fun h => h idle).trans ((if_neg (by rw [inputActive_keysvc, key]; decide)).trans
    ((if_neg ?_).trans rfl))
  split
  next => exact Bool.false_ne_true
  next other => exact absurd serves other

theorem retireCommand_absent (absent : x.ticket.arg1 = 0 ∨ x.store.row x.ticket.arg1 = none) :
    retireCommand tag x = answer 9 tag .notFound 0 0 x := by
  rw [retireCommand_serves tag idle key serves]
  split
  · rfl
  next named => rw [absent.resolve_left named]

theorem retireCommand_row {r : BookRow} (named : x.ticket.arg1 ≠ 0) (row : x.store.row x.ticket.arg1 = some r) :
    retireCommand tag x =
      if r.opened then answer 9 tag .state 0 (jobDetail x) x
      else if 40 ≤ x.store.queue.length then answer 9 tag .storeUnavailable 0 (storeDetail x) x
      else acceptRetire tag x := by
  have refusal := refuses_works (st := x.store) fun c failed => by rw [serves] at failed; cases failed
  rw [retireCommand_serves tag idle key serves, if_neg named, row]
  dsimp only
  rw [refusal]
  simp only [decide_eq_true_eq]

end

/-- Settles O26, by the command's tests in order. -/
theorem retireAnswered : Obligations.RetireAnswered := by
  refine ⟨?_, ?_⟩
  · rintro r s u rfl
    refine ⟨joinQueue_blocked, fun open_job => joinQueue_eq_chooseNext open_job r, fun a body free queue hb => ?_⟩
    exact choose_freeFor (told := id) (s := s.setStore { s.store with queue := s.store.queue ++ [r] }) free
      (rest := []) (by rw [State.setStore_store, queue]; rfl) ((appendBody_congr rfl r).trans hb)
  · rintro w s b rfl takes
    rw [exec_retire takes]
    refine ⟨fun busy => congrArg _ (retireCommand_state _ busy), fun idle off => congrArg _ (retireCommand_off _ idle off),
      fun idle key => ⟨fun away => congrArg _ (retireCommand_away _ idle key away), fun serves =>
      ⟨fun absent => congrArg _ (retireCommand_absent _ idle key serves absent), fun r named row =>
      ⟨fun opened => ?_, fun closed full => ?_, fun closed room => ?_⟩⟩⟩⟩ <;>
      refine congrArg _ ((retireCommand_row (x := arrived 9 w s) _ idle key serves named row).trans ?_)
    · rw [if_pos opened, jobDetail, arrived_ctl, idle]
      rfl
    · rw [if_neg (by rw [closed]; decide)]
      exact if_pos full
    · rw [if_neg (by rw [closed]; decide)]
      exact if_neg (Nat.not_le.2 room)

/-! ## ABORT (R102, R120) -/

/-- Records pushed outside a pitch operation and outside RUN go to the queue alone. -/
theorem pushRecord_calm {s : State} (r : Record) (outside : s.ctl.inOperation = false) (other : s.ctl.job ≠ .run) :
    pushRecord r s = { s with report := { s.report with queue := s.report.queue ++ [r] } } := by
  unfold pushRecord
  dsimp only
  split
  · unfold claim
    rw [State.setReport_ctl, if_neg (by rw [outside]; decide)]
    exact holdTest_of_not_run other
  · rfl

theorem satSucc_satAdd (v : Word) (n : Nat) : satAdd (satSucc v) n = satAdd v (n + 1) := by
  rw [satSucc_eq_satAdd]
  unfold satAdd
  congr 1
  rw [BitVec.toNat_ofNat, Nat.mod_eq_of_lt (by omega)]
  omega

theorem satAdd_zero (v : Word) : satAdd v 0 = v := by
  have := v.isLt
  unfold satAdd
  apply BitVec.eq_of_toNat_eq
  rw [BitVec.toNat_ofNat]
  omega

/-- A state with sets voided: records queued and the VOID count raised. -/
def voided (n : Nat) (rs : List Record) (s : State) : State :=
  { s with spoil := { s.spoil with void := satAdd s.spoil.void n }
           report := { s.report with queue := s.report.queue ++ rs } }

theorem voided_nil (s : State) : voided 0 [] s = s := by
  unfold voided
  rw [satAdd_zero, List.append_nil]

theorem voided_voided (m : Nat) (r : Record) (rs : List Record) (s : State) :
    voided m rs (voided 1 [r] s) = voided (m + 1) (r :: rs) s := by
  unfold voided
  dsimp only
  rw [List.append_assoc, ← satSucc_eq_satAdd, satSucc_satAdd]
  rfl

/-- The VOID record of a set with a cause added, at ABORT. -/
theorem abortEntry_set {s : State} (x : SetEntry) (outside : s.ctl.inOperation = false) (other : s.ctl.job ≠ .run) :
    abortEntry s (.set x) = voided 1 ((abortRecord (.set x)).toList) s := by
  unfold abortEntry
  dsimp only
  rw [pushRecord_calm (s := s.setSpoil { s.spoil with void := satSucc s.spoil.void }) _ outside other, satSucc_eq_satAdd]
  rfl

theorem foldl_abortEntry (es : List Entry) {s : State} (outside : s.ctl.inOperation = false) (other : s.ctl.job ≠ .run) :
    es.foldl abortEntry s = voided (es.filterMap abortRecord).length (es.filterMap abortRecord) s := by
  induction es generalizing s with
  | nil => exact (voided_nil s).symm
  | cons e es ih =>
    rw [List.foldl_cons]
    cases e with
    | set x =>
      rw [abortEntry_set x outside other, ih (s := voided 1 _ s) outside other]
      exact voided_voided ..
    | blank | pending => exact ih outside other

theorem abortRecord_blanked (es : List Entry) (p : Pipeline) (h : p.entries = es) :
    (blanked p).entries.filterMap abortRecord = es.filterMap abortRecord := by
  subst h
  unfold blanked
  split
  next stamp cs ps rest found => rw [found]; rfl
  next => rfl

/-- Settles O23, by the job state. -/
theorem abortAnswered : Obligations.AbortAnswered := by
  intro w s takes
  rw [exec_abort takes]
  refine ⟨fun job => ?_, fun job outside => ?_⟩
  · refine congrArg _ (if_neg ?_)
    rw [arrived_ctl]
    rcases job with h | h | h | h <;> simp [h]
  · have other : s.ctl.job ≠ .run := by rcases job with h | h | h <;> simp [h]
    refine congrArg _ ((if_pos job).trans ?_)
    have records := abortRecord_blanked s.pipe.entries s.pipe rfl
    unfold acceptAbort
    dsimp only
    rw [blankPending_eq, foldl_abortEntry _ (s := { arrived 6 w s with pipe := blanked (arrived 6 w s).pipe }) outside other,
      List.filterMap_reverse, arrived_pipe, records, List.length_reverse, ← List.filterMap_reverse]
    rfl

end Sys2Proof.Machine
end

section
/-! PROOFS. A change of the settings outside a job (R106, R108, R140), and the acceptance of LOAD and START (R116, R160). -/

namespace Sys2Proof.Machine
open Sys2Proof.Safety

/-! ## Faults outside a job -/

/-- No action of a fault can be applied now: no job runs, and no claim waits. -/
structure Restful (s : State) : Prop where
  outside : s.ctl.inOperation = false
  job : s.ctl.job.running = false

theorem acted_restful {s : State} (rest : Restful s) (act : FaultAction) (kind : FaultKind) (ply : BitVec 3) (serial : Word) :
    acted act kind ply serial s = s := by
  have job := rest.job
  unfold acted
  cases act with
  | carryOn => rfl
  | hold => exact if_neg fun run => by rw [run] at job; cases job
  | halt => exact if_neg fun run => by rcases run with run | run | run <;> (rw [run] at job; cases job)

theorem raise_restful {s : State} (rest : Restful s) (kind : FaultKind) (ply : BitVec 3) (serial : Word) :
    raise kind ply serial s = { s with report := recorded kind ply serial s } := by
  rw [raise_outside rest.outside]
  exact acted_restful (s := { s with report := recorded kind ply serial s }) ⟨rest.outside, rest.job⟩ ..

theorem holdTest_restful {s : State} (rest : Restful s) : holdTest s = s :=
  holdTest_of_not_run fun run => by have job := rest.job; rw [run] at job; cases job

theorem holdreqTo_restful {s : State} (rest : Restful s) (active : Bool) :
    holdreqTo active s = { s with lines := { s.lines with holdreq := active } } := by
  unfold holdreqTo
  dsimp only
  split
  · exact holdTest_restful (s := s.setLines { s.lines with holdreq := active }) ⟨rest.outside, rest.job⟩
  · rfl

/-! ## The settings of a ticket taken (R106) -/

/-- The input levels in force depend on the ticket and the accepted levels alone. -/
theorem inputActive_congr {s u : State} (active : u.ticket.active = s.ticket.active)
    (accepted : u.lines.accepted = s.lines.accepted) (n : Fin 18) : inputActive u n = inputActive s n := by
  simp [inputActive, setting, level, active, accepted]

/-- What a change of the settings makes of the part while no job runs. -/
structure SettingsIn (t : Option Ticket) (s u : State) : Prop where
  rest : u = { s with
    ticket := { s.ticket with active := t }
    lines := { s.lines with
      runs := List.replicate 18 0, holdreq := inputActive u inHoldreq, pwrwarn := inputActive u inPwrwarn }
    store := u.store
    report := u.report }
  warned : Warned s.store u.store
  queue : u.report.queue = s.report.queue
  calm : u.lines.pwrwarn = s.lines.pwrwarn → u.store = s.store ∧ u.report = s.report

theorem settingsTaken_restful {s : State} (rest : Restful s) (t : Option Ticket) :
    settingsTaken t s = withSettings t (inputActive (settingsTaken t s) inHoldreq) s := by
  have judged : settingsTaken t s = withSettings t (inputActive (withSettings t s.lines.holdreq s) inHoldreq) s := by
    unfold settingsTaken
    split
    · exact holdreqTo_restful (s := withSettings t s.lines.holdreq s) ⟨rest.outside, rest.job⟩ _
    next same =>
      have same : inputActive (withSettings t s.lines.holdreq s) inHoldreq = s.lines.holdreq :=
        by_contra fun h => same (bne_iff_ne.2 h)
      rw [same]
  conv_rhs => rw [judged]
  exact judged

/-- PWRWARN turned active while no job runs: POWER_WARN recorded, the store QUIESCED unless FAILED. -/
theorem powerActive_restful {s : State} (rest : Restful s) : ∃ st rep, rep.queue = s.report.queue ∧
    powerActive s = { s with lines := { s.lines with pwrwarn := true }, store := st, report := rep } := by
  have raised := raise_restful (s := { s with lines := { s.lines with pwrwarn := true } }) ⟨rest.outside, rest.job⟩
    .powerWarn 0 0
  by_cases works : ∀ c, s.store.phase ≠ .failed c
  · rw [powerActive_works works, raised]
    exact ⟨{ s.store with quiesced := true }, recorded .powerWarn 0 0 s, rfl, rfl⟩
  · obtain ⟨c, failed⟩ := not_forall_not.1 works
    rw [powerActive_failed failed, raised]
    exact ⟨s.store, recorded .powerWarn 0 0 s, rfl, rfl⟩

theorem powerInactive_eq (s : State) :
    ∃ st, powerInactive s = { s with lines := { s.lines with pwrwarn := false }, store := st } := by
  unfold powerInactive endRecovery
  dsimp only
  split
  · split <;> exact ⟨_, rfl⟩
  · exact ⟨s.store, rfl⟩

theorem setSettings_restful {s : State} (rest : Restful s) (t : Option Ticket) : SettingsIn t s (setSettings t s) := by
  have warned := setSettings_warned t s
  have taken := settingsTaken_restful rest t
  have eq := setSettings_eq t s
  have still : Restful (settingsTaken t s) := by rw [taken]; exact ⟨rest.outside, rest.job⟩
  generalize settingsTaken t s = x at taken eq still
  have xlines : x.lines.pwrwarn = s.lines.pwrwarn := by rw [taken]; rfl
  have xreport : x.report = s.report := by rw [taken]; rfl
  have xstore : x.store = s.store := by rw [taken]; rfl
  have shape : ∀ (st : Store) (rep : Report) (p : Bool), p = inputActive x inPwrwarn →
      setSettings t s = { x with lines := { x.lines with pwrwarn := p }, store := st, report := rep } →
      rep.queue = s.report.queue → (p = s.lines.pwrwarn → st = s.store ∧ rep = s.report) →
      SettingsIn t s (setSettings t s) := by
    intro st rep p hp hu queue calm
    rw [hu] at warned ⊢
    have levels : ∀ n, inputActive { x with lines := { x.lines with pwrwarn := p }, store := st, report := rep } n =
        inputActive x n := fun n => rfl
    refine ⟨?_, warned, queue, calm⟩
    rw [levels, levels, ← hp]
    generalize inputActive x inHoldreq = h at taken
    rw [taken]
    rfl
  rw [xlines] at eq
  cases active : inputActive x inPwrwarn != s.lines.pwrwarn with
  | false =>
    have same : inputActive x inPwrwarn = s.lines.pwrwarn := by simpa using active
    rw [if_neg (by rw [active]; decide)] at eq
    refine shape x.store x.report x.lines.pwrwarn (xlines.trans same.symm) eq (congrArg _ xreport) fun _ => ⟨xstore, xreport⟩
  | true =>
    have differs : inputActive x inPwrwarn ≠ s.lines.pwrwarn := by simpa using active
    rw [if_pos active] at eq
    cases on : inputActive x inPwrwarn with
    | true =>
      rw [if_pos on] at eq
      obtain ⟨st, rep, queue, h⟩ := powerActive_restful still
      exact shape st rep true on.symm (eq.trans h) (queue.trans (congrArg _ xreport))
        fun same => absurd (on.trans same) differs
    | false =>
      rw [if_neg (by rw [on]; decide)] at eq
      obtain ⟨st, h⟩ := powerInactive_eq x
      exact shape st x.report false on.symm (eq.trans h) (congrArg _ xreport) fun same => absurd (on.trans same) differs

/-- A choice while no job runs reaches the store, and the report block but for its queue. -/
theorem chooseNext_restful {s : State} (rest : Restful s) (open_job : s.ctl.job ≠ .closing) :
    ∃ st rep, chooseNext s = { s with store := st, report := rep } ∧ rep.queue = s.report.queue ∧ Chosen s.store st := by
  have chosen := chooseNext_chosen s
  have same : chooseNext s = chooseFrom id (s.store.queue.length + 1) s := chooseFrom_told open_job _
  have streams := chooseFrom_id_streams (s.store.queue.length + 1) s
  have stocked := stocked_chooseFrom (s.store.queue.length + 1) s
  rw [← same] at streams stocked
  generalize chooseNext s = u at chosen streams stocked
  cases stocked with
  | calm ss st _ =>
    obtain rfl : ss = s.streams := streams
    exact ⟨st, s.report, rfl, rfl, chosen⟩
  | waits ss st _ _ =>
    obtain rfl : ss = s.streams := streams
    refine ⟨st, recorded .storeFault 0 0 s, ?_, rfl, chosen⟩
    rw [raise_restful rest]
    rfl

/-! ## LOAD accepted (R4, R71, R160) -/

/-- The part with a ticket taken, its settings not yet in force. -/
def loaded (s : State) : State :=
  { s with
    streams := loadStreams (ticketOf s.ticket.staged) s.streams
    pipe := { s.pipe with pitchCount := 0, opened := 0, reserveWait := 0 }
    tally := s.tally.map Receiver.turnedOn
    spoil := { zones := .const 0, remakes := [], good := 0, void := 0, remade := 0, blank := 0, gate := true }
    timer := { s.timer with encoder := 0, deadlineMade := false }
    ctl := { s.ctl with job := .ready, command := false, fault := false, snapshot := { s.ctl.snapshot with valid := false } } }

theorem acceptLoad_eq (s : State) : acceptLoad s =
    chooseIfLeft (loaded s) (setSettings (some (ticketOf s.ticket.staged)) (loaded s)) := rfl

/-- The settings taken and the store's choice where it has left QUIESCED. -/
structure SettingsTaken (t : Option Ticket) (s u : State) : Prop where
  rest : u = { s with
    ticket := { s.ticket with active := t }
    lines := { s.lines with
      runs := List.replicate 18 0, holdreq := inputActive u inHoldreq, pwrwarn := inputActive u inPwrwarn }
    store := u.store
    report := u.report }
  table : u.store.table = s.store.table
  array : u.store.array = s.store.array
  queue : u.report.queue = s.report.queue
  calm : u.lines.pwrwarn = s.lines.pwrwarn → u.store = s.store ∧ u.report = s.report

theorem settingsTaken_chosen {s : State} (rest : Restful s) (open_job : s.ctl.job ≠ .closing) (t : Option Ticket) :
    SettingsTaken t s (chooseIfLeft s (setSettings t s)) := by
  obtain ⟨shape, warned, queue, calm⟩ := setSettings_restful rest t
  generalize setSettings t s = u at *
  have array : u.store.array = s.store.array := by rw [warned.rest]
  have table : u.store.table = s.store.table := by rw [warned.rest]
  unfold chooseIfLeft
  split
  next left =>
    have ctl : u.ctl = s.ctl := by rw [shape]
    have still : Restful u := ⟨by rw [ctl]; exact rest.outside, by rw [ctl]; exact rest.job⟩
    obtain ⟨st, rep, chooses, queue', chosen⟩ := chooseNext_restful still (by rw [ctl]; exact open_job)
    rw [chooses]
    refine ⟨?_, chosen.table.trans table, chosen.array.trans array, queue'.trans queue, fun same => ?_⟩
    · have levels : ∀ n, inputActive { u with store := st, report := rep } n = inputActive u n := fun n => rfl
      rw [levels, levels]
      conv_lhs => rw [shape]
    · rw [(calm same).1] at left
      simp at left
  next => exact ⟨shape, table, array, queue, calm⟩

theorem genSeed_eq (jobId : Word) : genSeed jobId = seedOf jobId := by
  have low : jobId.setWidth 24 = jobId.extractLsb' 0 24 := by
    apply BitVec.eq_of_getLsbD_eq
    simp
  unfold genSeed seedOf
  rw [low]

/-- The streams set up in order, each with the register the one before it left. -/
theorem loadStreams_registers (t : Ticket) (u : StreamUnit) : ∃ g : Fin 5 → BitVec 24,
    g 0 = (if t.policy = .proof then seedOf t.jobId else u.generator) ∧
    (∀ i : StreamId, loadStream t.policy (t.streams.get i) (g i.castSucc) = ((loadStreams t u).each.get i, g i.succ)) ∧
    (loadStreams t u).generator = g 4 := by
  rw [← genSeed_eq]
  generalize hg : (if t.policy = .proof then genSeed t.jobId else u.generator) = g0
  let r0 := loadStream t.policy t.streams.a0 g0
  let r1 := loadStream t.policy t.streams.a1 r0.2
  let r2 := loadStream t.policy t.streams.a2 r1.2
  let r3 := loadStream t.policy t.streams.a3 r2.2
  refine ⟨![g0, r0.2, r1.2, r2.2, r3.2], rfl, fun i => ?_, ?_⟩
  · fin_cases i <;> (rw [loadStreams, hg]; rfl)
  · rw [loadStreams, hg]
    rfl

theorem loadCommand_accepts (tag : Byte) {s : State} (idle : s.ctl.job = .idle)
    (passes : loadCheck s.ticket.staged s.store = none) : loadCommand tag s = answer 1 tag .done 0 0 (acceptLoad s) := by
  rw [loadCommand, if_neg (fun h => h idle), passes]

/-- Settles O18. -/
theorem loadAcceptedTakesJob : Obligations.LoadAcceptedTakesJob := by
  intro w s takes idle passes outside
  refine ⟨_, (exec_load takes).trans (congrArg _ (loadCommand_accepts w.tag (s := arrived 1 w s) idle passes)), ?_⟩
  rw [acceptLoad_eq, answer_eq]
  have taken := settingsTaken_chosen (s := loaded (arrived 1 w s)) ⟨outside, rfl⟩ (fun h => by cases h)
    (some (ticketOf (arrived 1 w s).ticket.staged))
  generalize chooseIfLeft _ _ = u at taken
  obtain ⟨shape, table, array, queue, calm⟩ := taken
  have levels : ∀ n, inputActive (withResult 1 w.tag .done 0 0 u) n = inputActive u n := fun n => rfl
  rw [levels, levels]
  generalize inputActive u inHoldreq = h, inputActive u inPwrwarn = p at shape ⊢
  have tally : ∀ k, (s.tally.map Receiver.turnedOn).get k = { s.tally.get k with line := .hunt, assembly := .empty } :=
    fun k => by fin_cases k <;> rfl
  obtain ⟨g, seed, each, last⟩ := loadStreams_registers (ticketOf s.ticket.staged) s.streams
  refine ⟨by rw [shape]; rfl, by rw [shape]; rfl, ⟨g, seed, ?_, ?_⟩, by rw [shape]; rfl, ?_, by rw [shape]; rfl,
    by rw [shape]; rfl, by rw [shape]; rfl, by rw [shape]; rfl, array, table, calm, queue, by rw [shape]; rfl⟩
  · rw [shape]
    exact each
  · rw [shape]
    exact last
  · rw [shape]
    exact tally

end Sys2Proof.Machine
end

section
/-! PROOFS. START (R15, R16, R43, R110, R116, R121). -/

namespace Sys2Proof.Machine
open Sys2Proof.Safety

/-! ## The start of a job -/

/-- The part at START, no request made yet. -/
def started (s : State) : State :=
  { s with
    pipe := { s.pipe with entries := List.replicate (gateDistOf s) .blank }
    ctl := { s.ctl with job := .run }
    timer := { s.timer with encoder := 0, deadlineMade := false } }

theorem acceptStart_eq {t : Ticket} {s : State} (active : s.ticket.active = some t) :
    acceptStart s = holdTest (startReservations t (started s)) := by
  have now : (clearEncoder ((s.setEntries (List.replicate (gateDistOf s) .blank)).setJob .run)).ticket.active = some t :=
    active
  unfold acceptStart
  dsimp only
  rw [now]
  rfl

/-- A pipeline of BLANK entries stays as it is. -/
theorem blanked_replicate {p : Pipeline} {n : Nat} (h : p.entries = List.replicate n .blank) : blanked p = p := by
  unfold blanked
  split
  next pending =>
    rw [h] at pending
    cases n <;> cases pending
  next => rfl

theorem withCause_replicate (c : Cause) (n : Nat) :
    (List.replicate n Entry.blank).map (withCause c) = List.replicate n .blank := by
  rw [List.map_replicate]
  rfl

theorem actsAs_storeFault (s : State) : actsAs s .storeFault = .halt := if_pos (.inr (.inr rfl))

/-- STORE_FAULT raised over BLANK entries halts the job and leaves the pipeline. -/
theorem raise_storeFault_blank {s : State} {n : Nat} (outside : s.ctl.inOperation = false) (run : s.ctl.job = .run)
    (blank : s.pipe.entries = List.replicate n .blank) :
    (raise .storeFault 0 0 s).pipe = s.pipe ∧ (raise .storeFault 0 0 s).ctl.job = .halted ∧
    (raise .storeFault 0 0 s).report = recorded .storeFault 0 0 s := by
  have pipe : haltedBy .storeFault 0 0 { s with report := recorded .storeFault 0 0 s } =
      { s with
        report := recorded .storeFault 0 0 s
        ctl := (haltedBy .storeFault 0 0 { s with report := recorded .storeFault 0 0 s }).ctl } := by
    have same : { blanked s.pipe with entries := (blanked s.pipe).entries.map (withCause .halt) } = s.pipe := by
      rw [blanked_replicate blank]
      conv_lhs => rw [blank, withCause_replicate, ← blank]
    unfold haltedBy
    dsimp only
    rw [same]
  have raised : raise .storeFault 0 0 s = haltedBy .storeFault 0 0 { s with report := recorded .storeFault 0 0 s } := by
    rw [raise_outside outside, actsAs_storeFault]
    exact if_pos (.inl run)
  rw [raised]
  exact ⟨by rw [pipe], rfl, by rw [pipe]⟩

/-- With its queue below the level, a job that has just started is held by the causes alone (R121). -/
theorem holdTest_started {s : State} {n : Nat} (run : s.ctl.job = .run) (low : s.report.queue.length < 48)
    (blank : s.pipe.entries = List.replicate n .blank) : holdTest s = { s with ctl := { s.ctl with job :=
      if s.ctl.command || s.ctl.fault || s.lines.holdreq then .hold else .run } } := by
  have cause : holdCause s = (s.ctl.command || s.ctl.fault || s.lines.holdreq) := by
    have level : queueCause s = false := by
      rw [Bool.eq_false_iff, Ne, queueCause_iff]
      omega
    rw [holdCause, level, Bool.or_false]
  have same : ∀ j : JobState, j = .run → { s with ctl := { s.ctl with job := j } } = s := fun j hj => by
    rw [hj, ← run]
  unfold holdTest
  rw [cause]
  cases s.ctl.command || s.ctl.fault || s.lines.holdreq with
  | true =>
    rw [if_pos ⟨run, rfl⟩, enterHold, blankPending_eq, blanked_replicate blank]
    rfl
  | false =>
    rw [if_neg fun h => by cases h.2]
    exact (same _ rfl).symm

theorem holdTest_restOf (s : State) : (holdTest s).streams = s.streams ∧ (holdTest s).ticket = s.ticket ∧
    (holdTest s).timer = s.timer ∧ (holdTest s).spoil = s.spoil ∧ (holdTest s).lines = s.lines ∧
    (holdTest s).tally = s.tally ∧ (holdTest s).path = s.path ∧ (holdTest s).report = s.report := by
  unfold holdTest
  split
  · unfold enterHold
    rw [blankPending_eq]
    exact ⟨rfl, rfl, rfl, rfl, rfl, rfl, rfl, rfl⟩
  · exact ⟨rfl, rfl, rfl, rfl, rfl, rfl, rfl, rfl⟩

/-- What START makes of the part it finds, in the blocks the requests do not reach. -/
structure Started (s u : State) : Prop where
  ticket : u.ticket = s.ticket
  pipe : u.pipe = { s.pipe with entries := List.replicate (gateDistOf s) .blank }
  timer : u.timer = { s.timer with encoder := 0, deadlineMade := false }
  spoil : u.spoil = s.spoil
  lines : u.lines = s.lines
  tally : u.tally = s.tally
  path : u.path = s.path
  queue : u.report.queue = s.report.queue
  calm : u.store.fullWait = s.store.fullWait → u.report = s.report ∧
    u.ctl = { s.ctl with job := if s.ctl.command || s.ctl.fault || s.lines.holdreq then .hold else .run }
  waits : s.store.fullWait = false → u.store.fullWait = true →
    u.ctl.job = .halted ∧ u.report.flags = s.report.flags ||| BitVec.twoPow 17 16

theorem started_of_stocked {s v : State} (outside : s.ctl.inOperation = false) (low : s.report.queue.length < 48)
    (stocked : Stocked (started s) v) : Started s (holdTest v) ∧ (holdTest v).streams = v.streams ∧
    (holdTest v).store = v.store := by
  refine ⟨?_, (holdTest_restOf v).1, holdTest_store v⟩
  have blank : (started s).pipe.entries = List.replicate (gateDistOf s) .blank := rfl
  cases stocked with
  | calm ss st same =>
    rw [holdTest_started (s := withStock ss st (started s)) rfl low blank]
    exact ⟨rfl, rfl, rfl, rfl, rfl, rfl, rfl, rfl, fun _ => ⟨rfl, rfl⟩,
      fun off on => absurd (off.symm.trans (same.symm.trans on)) (by decide)⟩
  | waits ss st off on =>
    obtain ⟨pipe, job, report⟩ := raise_storeFault_blank (s := started s) outside rfl blank
    rw [holdTest_of_not_run (s := withStock ss st (raise .storeFault 0 0 (started s)))
      (fun run => by cases job.symm.trans run)]
    refine ⟨raise_ticket .., pipe, raise_timer .., ?_, raise_lines .., raise_tally .., raise_path .., ?_,
      fun same => absurd (off.symm.trans (same.symm.trans on)) (by decide), fun _ _ => ⟨job, ?_⟩⟩
    · obtain ⟨p, j, r, h⟩ := raise_changes .storeFault 0 0 (started s)
      exact (congrArg State.spoil h).trans rfl
    · exact (congrArg Report.queue report).trans rfl
    · exact (congrArg Report.flags report).trans rfl

/-! ## The answers of START (R116) -/

theorem exhaustedStream_some {t : Ticket} {s : State} {i : StreamId} (active : s.ticket.active = some t)
    (on : (t.streams.get i).active = true) (out : (streamAt s i).status = .exhausted)
    (lower : ∀ j < i, (t.streams.get j).active = true → (streamAt s j).status ≠ .exhausted) :
    exhaustedStream s = some i := by
  rw [exhaustedStream, active]
  refine find?_eq_first (fours_sorted.filter _) ((mem_activeStreams t i).2 on) (by simp [out]) fun j hj less => ?_
  simpa using lower j less ((mem_activeStreams t j).1 hj)

theorem exhaustedStream_none {t : Ticket} {s : State} (active : s.ticket.active = some t)
    (live : ∀ i, (t.streams.get i).active = true → (streamAt s i).status ≠ .exhausted) : exhaustedStream s = none := by
  rw [exhaustedStream, active]
  simpa [mem_activeStreams] using live

theorem exhaustedTest_none {t : Ticket} {s : State} (active : s.ticket.active = some t)
    (fresh : s.spoil.remakes ≠ [] ∨ ∀ i, (t.streams.get i).active = true → (streamAt s i).status ≠ .exhausted) :
    (if s.spoil.remakes = [] then exhaustedStream s else none) = none := by
  rcases fresh with remakes | live
  · exact if_neg remakes
  · rw [exhaustedStream_none active live, ite_self]

section
variable (tag : Byte) {x : State}

theorem startCommand_state (other : x.ctl.job ≠ .ready) : startCommand tag x = answer 2 tag .state 0 (jobDetail x) x :=
  if_pos other

variable (ready : x.ctl.job = .ready)
include ready

theorem startCommand_lines {n : Fin 18} (first : firstHaltInput x = some n) :
    startCommand tag x = answer 2 tag .linesActive 0 (detailOf n.val) x := by
  rw [startCommand, if_neg (fun h => h ready), first]

variable (quiet_lines : firstHaltInput x = none)
include quiet_lines

theorem startCommand_high (high : queueCause x = true) :
    startCommand tag x = answer 2 tag .queueHigh 0 (levelDetail x) x := by
  rw [startCommand, if_neg (fun h => h ready), quiet_lines]
  exact if_pos high

variable (low : queueCause x = false)
include low

theorem startCommand_exhausted {i : StreamId} (out : (if x.spoil.remakes = [] then exhaustedStream x else none) = some i) :
    startCommand tag x = answer 2 tag .exhausted 0 (detailOf i.val) x := by
  rw [startCommand, if_neg (fun h => h ready), quiet_lines]
  dsimp only
  rw [if_neg (by rw [low]; decide), out]

theorem startCommand_accepts (more : (if x.spoil.remakes = [] then exhaustedStream x else none) = none) :
    startCommand tag x = answer 2 tag .done 0 0 (acceptStart x) := by
  rw [startCommand, if_neg (fun h => h ready), quiet_lines]
  dsimp only
  rw [if_neg (by rw [low]; decide), more]

end

/-- What requests make of the streams and the store says nothing of the other blocks. -/
theorem requested_congr {t : Ticket} {ask : StreamId → Option Word} {s u s' u' : State} (h : Requested t ask s u)
    (streams : s'.streams = s.streams) (store : s'.store = s.store) (streams' : u'.streams = u.streams)
    (store' : u'.store = u.store) : Requested t ask s' u' := by
  have before : ∀ i, streamAt s' i = streamAt s i := fun i => by rw [streamAt, streams]; rfl
  have after : ∀ i, streamAt u' i = streamAt u i := fun i => by rw [streamAt, streams']; rfl
  obtain ⟨generator, each, queue, failed⟩ := h
  refine ⟨by rw [streams, streams', generator], ?_, ?_, ?_⟩
  · simp only [before, after, store, store', RoomFor]
    exact each
  · simp only [store, store']
    exact queue
  · simp only [before, after, store, store']
    exact failed

/-- Settles O20, by the command's tests in order. -/
theorem startAnswered : Obligations.StartAnswered := by
  intro w s takes
  rw [exec_start takes]
  refine ⟨fun other => congrArg _ (startCommand_state (x := arrived 2 w s) _ other), fun ready => ⟨fun n first =>
    congrArg _ (startCommand_lines (x := arrived 2 w s) _ ready (firstHaltInput_some first)), fun noLine => ?_⟩⟩
  have lines : firstHaltInput (arrived 2 w s) = none := firstHaltInput_none noLine
  refine ⟨fun high => congrArg _ (startCommand_high (x := arrived 2 w s) _ ready lines (queueCause_iff.2 high)),
    fun low none t i active on out lower => congrArg _ (startCommand_exhausted (x := arrived 2 w s) _ ready lines ?_ ?_),
    fun low outside t active fresh => ?_⟩
  · rw [Bool.eq_false_iff, Ne, queueCause_iff]
    exact Nat.not_le.2 low
  · exact (if_pos none).trans (exhaustedStream_some (s := arrived 2 w s) active on out lower)
  · have level : queueCause (arrived 2 w s) = false := by
      rw [Bool.eq_false_iff, Ne, queueCause_iff]
      exact Nat.not_le.2 low
    refine ⟨_, congrArg _ (startCommand_accepts (x := arrived 2 w s) _ ready lines level (exhaustedTest_none (s := arrived 2 w s) active fresh)),
      ?_⟩
    rw [answer_eq, acceptStart_eq (s := arrived 2 w s) active]
    obtain ⟨shape, streams, store⟩ := started_of_stocked (s := arrived 2 w s) outside low
      (startReservations_stocked t (started (arrived 2 w s)))
    have asked := startReservations_requested t (started (arrived 2 w s))
    have nobody : (∀ i, ¬Booked t i) → startReservations t (started (arrived 2 w s)) = started (arrived 2 w s) := by
      intro none
      rw [startReservations_eq]
      exact List.foldl_fixed' (fun i => askBy_none t _ (if_neg fun h => none i h.1)) fours
    generalize startReservations t (started (arrived 2 w s)) = v at *
    generalize holdTest v = u at *
    refine ⟨?_, shape.pipe, shape.timer, shape.spoil, shape.lines, shape.tally, shape.path, shape.queue,
      requested_congr asked rfl rfl streams store, fun none => ?_, shape.calm, shape.waits⟩
    · unfold withResult
      dsimp only
      rw [shape.ticket]
    · rw [nobody none] at streams store
      exact ⟨streams, store⟩

end Sys2Proof.Machine
end

section
/-! PROOFS. CLOSE: its records, its close appends and its end (R186 to R191). -/

namespace Sys2Proof.Machine
open Sys2Proof.Safety

/-! ## The end of CLOSE (R191) -/

/-- The result CLOSE ends with, given the lowest stream whose close append failed (R189, R191). -/
def closeResult : Option StreamId → ResultCode
  | none => .done
  | some _ => .storeUnavailable

/-- The detail that goes with it. -/
def closeDetail : Option StreamId → Word
  | none => 0
  | some i => BitVec.ofNat 32 i.val

theorem closeReplied_eq {c : State} {p : PendingCommand} (waiting : c.ticket.waiting = some p) (kind : p.kind = .close) :
    closeReplied c = { c with ticket := { c.ticket with
      waiting := none
      result := { code := 7, tag := p.tag, result := closeResult p.failed, check := 0, detail := closeDetail p.failed,
                  echo1 := p.echo1, echo2 := p.echo2 } } } := by
  have ended : ∀ r d, endPending r d c = { c with ticket := { c.ticket with
      waiting := none
      result := { code := 7, tag := p.tag, result := r, check := 0, detail := d, echo1 := p.echo1, echo2 := p.echo2 } } } := by
    intro r d
    rw [endPending, waiting]
    dsimp only
    rw [kind]
    rfl
  have failed : c.ticket.waiting.bind (·.failed) = p.failed := by rw [waiting]; rfl
  unfold closeReplied
  rw [failed]
  cases p.failed with
  | none => exact ended .done 0
  | some i => exact ended .storeUnavailable (BitVec.ofNat 32 i.val)

/-- The part with the job dropped and the default settings in force, but for its store and its report block. -/
def Closed (c u : State) : Prop :=
  u = { jobDropped (closeReplied c) with
    ticket := { (closeReplied c).ticket with active := none }
    lines := { (jobDropped (closeReplied c)).lines with
      runs := List.replicate 18 0, holdreq := inputActive u inHoldreq, pwrwarn := inputActive u inPwrwarn }
    store := u.store
    report := u.report }

theorem Closed.ended {c u : State} {p : PendingCommand} (closed : Closed c u) (waiting : c.ticket.waiting = some p)
    (kind : p.kind = .close) : JobEnded (closeResult p.failed) (closeDetail p.failed) c u := by
  unfold Closed at closed
  rw [closeReplied_eq waiting kind] at closed
  generalize hh : inputActive u inHoldreq = h at closed
  generalize hp : inputActive u inPwrwarn = q at closed
  have off : c.tally.map Receiver.turnedOff = State.reset.tally := rfl
  refine ⟨by rw [closed]; rfl, fun p' waiting' => ?_, by rw [closed]; rfl, by rw [closed]; rfl, by rw [closed]; rfl,
    by rw [closed]; exact off, by rw [closed]; rfl, ⟨by rw [closed]; rfl, fun k => ?_⟩, ?_⟩
  · obtain rfl : p = p' := Option.some.inj (waiting.symm.trans waiting')
    rw [closed]
  · rw [closed]
    fin_cases k <;> rfl
  · rw [hh, hp, closed]
    rfl

theorem jobDropped_restful {s : State} (outside : s.ctl.inOperation = false) : Restful (jobDropped s) := ⟨outside, rfl⟩

theorem closeReplied_ctl (s : State) : (closeReplied s).ctl = s.ctl := by
  have ended : ∀ r d, (endPending r d s).ctl = s.ctl := fun r d => by unfold endPending; split <;> rfl
  unfold closeReplied
  split <;> exact ended ..

theorem closeReplied_report (s : State) : (closeReplied s).report = s.report := by
  have ended : ∀ r d, (endPending r d s).report = s.report := fun r d => by unfold endPending; split <;> rfl
  unfold closeReplied
  split <;> exact ended ..

theorem closeReplied_lines (s : State) : (closeReplied s).lines = s.lines := by
  have ended : ∀ r d, (endPending r d s).lines = s.lines := fun r d => by unfold endPending; split <;> rfl
  unfold closeReplied
  split <;> exact ended ..

theorem closeEnd_settings {c : State} (outside : c.ctl.inOperation = false) :
    SettingsIn none (jobDropped (closeReplied c)) (closeEnd c) := by
  rw [closeEnd_eq]
  exact setSettings_restful (jobDropped_restful (by rw [closeReplied_ctl]; exact outside)) none

theorem closeEnd_closed {c : State} (outside : c.ctl.inOperation = false) : Closed c (closeEnd c) :=
  (closeEnd_settings outside).rest

theorem closeEnd_queue {c : State} (outside : c.ctl.inOperation = false) :
    (closeEnd c).report.queue = c.report.queue := by
  rw [(closeEnd_settings outside).queue]
  exact congrArg Report.queue (closeReplied_report c)

/-- Without a change of the power warning the end of CLOSE leaves the store and the report block. -/
theorem closeEnd_calm {c : State} (outside : c.ctl.inOperation = false)
    (same : (closeEnd c).lines.pwrwarn = c.lines.pwrwarn) : (closeEnd c).store = c.store ∧ (closeEnd c).report = c.report := by
  obtain ⟨store, report⟩ := (closeEnd_settings outside).calm
    (same.trans (congrArg LineMonitor.pwrwarn (closeReplied_lines c)).symm)
  exact ⟨store.trans (closeReplied_store c), report.trans (closeReplied_report c)⟩

/-- The end of CLOSE, and the store's choice where it has left QUIESCED. -/
theorem closeEnd_left {c c' : State} (outside : c.ctl.inOperation = false) (store : c'.store = c.store) :
    SettingsTaken none (jobDropped (closeReplied c)) (chooseIfLeft c' (closeEnd c)) := by
  have left : chooseIfLeft c' (closeEnd c) =
      chooseIfLeft (jobDropped (closeReplied c)) (setSettings none (jobDropped (closeReplied c))) := by
    rw [← closeEnd_eq, chooseIfLeft, chooseIfLeft, store, jobDropped_store, closeReplied_store]
  rw [left]
  exact settingsTaken_chosen (jobDropped_restful (by rw [closeReplied_ctl]; exact outside)) (fun h => by cases h) none

theorem closeIfDone_ends {c : State} {p : PendingCommand} (waiting : c.ticket.waiting = some p) (kind : p.kind = .close)
    (closing : c.ctl.job = .closing) (none_left : c.store.queue.any Request.isCloseAppend = false) :
    closeIfDone c = closeEnd c := by
  rw [closeIfDone, waiting]
  exact if_pos ⟨kind, closing, none_left⟩

/-! ## The records of CLOSE (R187, R188) -/

theorem unmadeEntry_eq {s : State} (outside : s.ctl.inOperation = false) (other : s.ctl.job ≠ .run) (x : RemakeEntry) :
    unmadeEntry s x = voided 1 [unmadeRecord s.pipe.pitchCount x] s := by
  unfold unmadeEntry
  rw [pushRecord_calm (s := s.setSpoil { s.spoil with void := satSucc s.spoil.void }) _ outside other, satSucc_eq_satAdd]
  rfl

theorem foldl_unmadeEntry (xs : List RemakeEntry) {s : State} (outside : s.ctl.inOperation = false)
    (other : s.ctl.job ≠ .run) :
    xs.foldl unmadeEntry s = voided xs.length (xs.map (unmadeRecord s.pipe.pitchCount)) s := by
  induction xs generalizing s with
  | nil => exact (voided_nil s).symm
  | cons x xs ih =>
    rw [List.foldl_cons, unmadeEntry_eq outside other, ih (s := voided 1 _ s) outside other]
    exact voided_voided ..

theorem pushRecords_calm (rs : List Record) {s : State} (outside : s.ctl.inOperation = false) (other : s.ctl.job ≠ .run) :
    pushRecords rs s = { s with report := { s.report with queue := s.report.queue ++ rs } } := by
  unfold pushRecords
  induction rs generalizing s with
  | nil =>
    rw [List.append_nil]
    rfl
  | cons r rs ih =>
    rw [List.foldl_cons, pushRecord_calm r outside other,
      ih (s := { s with report := { s.report with queue := s.report.queue ++ [r] } }) outside other]
    exact congrArg (fun q => { s with report := { s.report with queue := q } }) (List.append_assoc ..)

/-- The part with CLOSE accepted and the remake list voided. -/
def closeTaken (tag : Byte) (s : State) : State :=
  closeRemakes ((answer 7 tag .pending 0 0 (s.setJob .closing)).setTicket
    { (answer 7 tag .pending 0 0 (s.setJob .closing)).ticket with
      waiting := some { kind := .close, tag, echo1 := s.ticket.arg1, echo2 := s.ticket.arg2, failed := none } })

theorem acceptClose_eq {t : Ticket} {tag : Byte} {s : State} (active : (closeTaken tag s).ticket.active = some t) :
    acceptClose tag s = chooseIfLeft (closeTaken tag s)
      (askCloses t (fours.filter t.booked) (pushSummaries t (closeTaken tag s))) := by
  change chooseIfLeft (closeTaken tag s) (match (closeTaken tag s).ticket.active with
    | some t => askCloses t (fours.filter t.booked) (pushSummaries t (closeTaken tag s))
    | none => closeIfDone (closeTaken tag s)) = _
  rw [active]

section
variable (w : CommandWrite) (t : Ticket) {s : State} (outside : s.ctl.inOperation = false)
include outside

theorem closeTaken_eq : closeTaken w.tag (arrived 7 w s) = voided s.spoil.remakes.length
    (s.spoil.remakes.map (unmadeRecord s.pipe.pitchCount)) { arrived 7 w s with
      ctl := { s.ctl with job := .closing }
      ticket := { (withResult 7 w.tag .pending 0 0 (arrived 7 w s)).ticket with waiting := some (waitingClose w s) }
      spoil := { s.spoil with remakes := [] } } :=
  foldl_unmadeEntry s.spoil.remakes (s := { arrived 7 w s with
      ctl := { s.ctl with job := .closing }
      ticket := { (withResult 7 w.tag .pending 0 0 (arrived 7 w s)).ticket with waiting := some (waitingClose w s) }
      spoil := { s.spoil with remakes := [] } }) outside (fun h => by cases h)

theorem closing_records : pushSummaries t (closeTaken w.tag (arrived 7 w s)) = closingState w t s := by
  rw [closeTaken_eq w outside]
  unfold pushSummaries
  refine (pushRecords_calm _ (by exact outside) (fun h => by cases h)).trans ?_
  unfold closingState closeRecords
  dsimp only [voided]
  rw [List.append_assoc, List.append_assoc]
  rfl

theorem closeCommand_accepts (ready : s.ctl.job = .ready) (low : s.report.queue.length < 48)
    (active : s.ticket.active = some t) : closeCommand w.tag (arrived 7 w s) =
      chooseIfLeft s (askCloses t (fours.filter t.booked) (closingState w t s)) := by
  have taken : (closeTaken w.tag (arrived 7 w s)).ticket.active = some t := by
    rw [closeTaken_eq w outside]
    exact active
  have store : (closeTaken w.tag (arrived 7 w s)).store = s.store := by
    rw [closeTaken_eq w outside]
    rfl
  have level : queueCause (arrived 7 w s) = false := by
    rw [Bool.eq_false_iff, Ne, queueCause_iff]
    exact Nat.not_le.2 low
  rw [closeCommand, if_neg (fun h => h ready), if_neg (by rw [level]; decide), acceptClose_eq taken,
    closing_records w t outside, chooseIfLeft, store]
  rfl

end

/-! ## The close appends asked for (R189) -/

/-- The close append a stream's record asks for. -/
def closeRequest (t : Ticket) (c : State) (i : StreamId) : Request :=
  .closeAppend i (t.streams.get i).book (t.streams.get i).dir
    (if (streamAt c i).drawn then some (streamAt c i).lastDrawn else none)

theorem booked_filter (t : Ticket) : fours.filter t.booked = fours.filter fun i => decide (Booked t i) :=
  List.filter_congr fun i _ => by simp [← booked_iff]

theorem closeRequests_eq (w : CommandWrite) (t : Ticket) (s : State) :
    closeRequests t s = (fours.filter t.booked).map (closeRequest t (closingState w t s)) := by
  rw [booked_filter]
  rfl

section
variable (t : Ticket) {c : State}

theorem askCloses_cons {is : List StreamId} (more : is ≠ []) (i : StreamId) (s : State) :
    askCloses t (i :: is) s = askCloses t is (askClose t id i s) := by
  cases is with
  | nil => exact absurd rfl more
  | cons j is => rfl

/-- A close append asked of a store in service joins the queue, and the store chooses. -/
theorem askClose_joins (told : State → State) (i : StreamId) {st : Store} (works : ∀ f, st.phase ≠ .failed f)
    (room : st.queue.length < 40) : askClose t told i (c.setStore st) =
      choose told (c.setStore { st with queue := st.queue ++ [closeRequest t c i] }) := by
  have accepted : refuses (c.setStore st).store = false := by
    rw [State.setStore_store, refuses_works works]
    simpa using room
  unfold askClose
  rw [if_neg (by rw [accepted]; decide)]
  rfl

/-- While the store may start nothing a close append joins the queue. -/
theorem askClose_blocked (told : State → State) (i : StreamId) {st : Store} (works : ∀ f, st.phase ≠ .failed f)
    (blocked : st.op ≠ none ∨ st.quiesced = true) (room : st.queue.length < 40) : askClose t told i (c.setStore st) =
      c.setStore { st with queue := st.queue ++ [closeRequest t c i] } := by
  rw [askClose_joins t told i works room]
  refine choose_of_not_mayStart ?_
  rw [Bool.eq_false_iff, Ne, mayStart_iff]
  rintro ⟨op, quiesced, -⟩
  rcases blocked with busy | asleep
  · exact busy op
  · rw [show st.quiesced = false from quiesced] at asleep
    cases asleep

theorem askCloses_blocked {is : List StreamId} (some_asked : is ≠ []) {st : Store} (works : ∀ f, st.phase ≠ .failed f)
    (blocked : st.op ≠ none ∨ st.quiesced = true) (room : st.queue.length + is.length ≤ 40) :
    askCloses t is (c.setStore st) = c.setStore { st with queue := st.queue ++ is.map (closeRequest t c) } := by
  induction is generalizing st with
  | nil => exact absurd rfl some_asked
  | cons i is ih =>
    have here : st.queue.length < 40 := by simp at room; omega
    by_cases more : is = []
    · subst more
      exact askClose_blocked t closeIfDone i works blocked here
    · rw [askCloses_cons t more, askClose_blocked t id i works blocked here,
        ih more (st := { st with queue := st.queue ++ [closeRequest t c i] }) works blocked (by simp at room ⊢; omega),
        List.append_assoc]
      rfl

/-! ### A store free for the queue -/

section
variable {st : Store} {a : SectorId} (free : FreeFor st a) (empty : st.queue = []) (fresh : st.retried = false)
include free empty fresh

/-- A close append of a book with no row leaves a free store to its other choices. -/
theorem askClose_rowless {i : StreamId} (rowless : appendBody st (closeRequest t c i) = none) :
    askClose t id i (c.setStore st) = c.setStore (eraseStart st) := by
  have queued : FreeFor { st with queue := [closeRequest t c i] } a := free
  have back : dropHead (c.setStore { st with queue := [closeRequest t c i] }) = c.setStore st := by
    refine congrArg c.setStore ?_
    rw [← empty, ← fresh]
    rfl
  have answered := choose_answers (told := id) (fun _ => rfl) (s := c.setStore { st with queue := [closeRequest t c i] })
    (mayStart_freeFor queued) (compactionStart_freeFor queued) rfl
    ((appendBody_congr (t := { st with queue := _ }) (s := st) rfl _).trans rowless)
  rw [askClose_joins t id i free.2.2.2.1 (by rw [empty]; decide), empty, List.nil_append, answered, id, back]
  exact choose_idle (s := c.setStore st) (mayStart_freeFor free) (compactionStart_freeFor free) empty

/-- The last close append asked for, of a book with no row, ends CLOSE, and the store chooses. -/
theorem askClose_last {i : StreamId} (rowless : appendBody st (closeRequest t c i) = none) :
    askClose t closeIfDone i (c.setStore st) = chooseNext (closeIfDone (c.setStore st)) := by
  have queued : FreeFor { st with queue := [closeRequest t c i] } a := free
  have back : dropHead (c.setStore { st with queue := [closeRequest t c i] }) = c.setStore st := by
    refine congrArg c.setStore ?_
    rw [← empty, ← fresh]
    rfl
  rw [askClose_joins t closeIfDone i free.2.2.2.1 (by rw [empty]; decide), empty, List.nil_append, ← back]
  exact chooseNext_answers (s := c.setStore { st with queue := [closeRequest t c i] }) (mayStart_freeFor queued)
    (compactionStart_freeFor queued) rfl ((appendBody_congr (t := { st with queue := _ }) (s := st) rfl _).trans rowless)

/-- The first close append that writes an entry starts, the others wait behind it. -/
theorem askCloses_starts {qs rest : List StreamId} {i : StreamId} {body : EntryBody} (few : rest.length < 40)
    (rowless : ∀ j ∈ qs, appendBody st (closeRequest t c j) = none) (hb : appendBody st (closeRequest t c i) = some body)
    (still : qs = [] ∨ st.lowest .full = none) : askCloses t (qs ++ i :: rest) (c.setStore st) =
      c.setStore { appendStarted st a body with queue := (i :: rest).map (closeRequest t c) } := by
  induction qs with
  | nil =>
    have first : ∀ told, askClose t told i (c.setStore st) =
        c.setStore { appendStarted st a body with queue := [closeRequest t c i] } := fun told => by
      rw [askClose_joins t told i free.2.2.2.1 (by rw [empty]; decide), empty, List.nil_append]
      exact choose_freeFor (s := c.setStore { st with queue := [closeRequest t c i] }) (a := a) free (rest := []) rfl
        ((appendBody_congr (t := { st with queue := _ }) (s := st) rfl _).trans hb)
    rw [List.nil_append]
    by_cases more : rest = []
    · subst more
      exact first closeIfDone
    · rw [askCloses_cons t more, first id, askCloses_blocked t more (st := { appendStarted st a body with queue := _ })
        free.2.2.2.1 (.inl (by simp [appendStarted])) (by simp; omega)]
      rfl
  | cons q qs ih =>
    have low := still.resolve_left (List.cons_ne_nil q qs)
    rw [List.cons_append, askCloses_cons t (by simp), askClose_rowless t free empty fresh (rowless q List.mem_cons_self),
      eraseStart_none low]
    exact ih (fun j hj => rowless j (List.mem_cons_of_mem _ hj)) (.inr low)

/-- With no close append that writes an entry CLOSE ends at once. -/
theorem askCloses_ends {is : List StreamId} (rowless : ∀ j ∈ is, appendBody st (closeRequest t c j) = none)
    (low : st.lowest .full = none) : askCloses t is (c.setStore st) =
      if is = [] then closeIfDone (c.setStore st) else chooseNext (closeIfDone (c.setStore st)) := by
  induction is with
  | nil => rfl
  | cons i is ih =>
    rw [if_neg (List.cons_ne_nil i is)]
    by_cases more : is = []
    · subst more
      exact askClose_last t free empty fresh (rowless i List.mem_cons_self)
    · rw [askCloses_cons t more, askClose_rowless t free empty fresh (rowless i List.mem_cons_self), eraseStart_none low,
        ih fun j hj => rowless j (List.mem_cons_of_mem _ hj), if_neg more]

end

/-! ### A FAILED store -/

/-- The part with close appends failed: their rows as R145 leaves them, CLOSE's record naming a stream. -/
def closesFailed (t : Ticket) (is : List StreamId) (p : PendingCommand) (f : Option StreamId) (c : State) : State :=
  { c with
    store := { c.store with
      table := is.foldl (fun rows j => tableAfterFailedClose (t.streams.get j).book rows) c.store.table }
    ticket := { c.ticket with waiting := some { p with failed := f } } }

theorem closesFailed_nil {p : PendingCommand} (waiting : c.ticket.waiting = some p) :
    closesFailed t [] p p.failed c = c := by
  unfold closesFailed
  rw [List.foldl_nil]
  conv_rhs => rw [show c = { c with ticket := { c.ticket with waiting := some p } } from by rw [← waiting]]

theorem closeFailed_eq {p : PendingCommand} (waiting : c.ticket.waiting = some p) (i : StreamId) :
    closeFailed i (t.streams.get i).book c =
      closesFailed t [i] p (some (match p.failed with | some j => if j.val ≤ i.val then j else i | none => i)) c := by
  unfold closeFailed noteFailedClose
  rw [State.setStore_ticket, waiting]
  rfl

theorem askClose_refused (told : State → State) (i : StreamId) {f : FailCause} (failed : c.store.phase = .failed f) :
    askClose t told i c = told (closeFailed i (t.streams.get i).book c) :=
  if_pos (refuses_failed failed)

/-- A FAILED store refuses every close append: each fails, and CLOSE ends with the lowest stream. -/
theorem askCloses_failed {is : List StreamId} (sorted : is.Pairwise (· < ·)) {f : FailCause} {p : PendingCommand}
    (failed : c.store.phase = .failed f) (waiting : c.ticket.waiting = some p)
    (lower : ∀ j, p.failed = some j → ∀ i ∈ is, j ≤ i) :
    askCloses t is c = closeIfDone (closesFailed t is p (p.failed.or is.head?) c) := by
  induction is generalizing c p with
  | nil => rw [List.head?_nil, Option.or_none, closesFailed_nil t waiting]; rfl
  | cons i is ih =>
    obtain ⟨first, rest⟩ := List.pairwise_cons.1 sorted
    have named : some (match p.failed with | some j => if j.val ≤ i.val then j else i | none => i) =
        p.failed.or (i :: is).head? := by
      cases hf : p.failed with
      | none => rfl
      | some j =>
        have : j ≤ i := lower j hf i List.mem_cons_self
        simp [this]
    have step := (closeFailed_eq t waiting i).trans (congrArg (fun f => closesFailed t [i] p f c) named)
    by_cases more : is = []
    · subst more
      exact (askClose_refused t closeIfDone i failed).trans (congrArg closeIfDone step)
    · rw [askCloses_cons t more, askClose_refused t id i failed, id, step]
      generalize hf : p.failed.or (i :: is).head? = g
      obtain ⟨j, rfl, below⟩ : ∃ j, g = some j ∧ j ≤ i := by
        rw [← hf]
        cases hp : p.failed with
        | none => exact ⟨i, rfl, le_refl _⟩
        | some j => exact ⟨j, rfl, lower j hp i List.mem_cons_self⟩
      rw [ih rest (c := closesFailed t [i] p (some j) c) (p := { p with failed := some j }) failed rfl fun k hk l hl => ?_]
      · rfl
      · cases hk
        exact le_trans below (le_of_lt (first l hl))

end

/-! ## CLOSE answered -/

section
variable (tag : Byte) {x : State}

theorem closeCommand_state (other : x.ctl.job ≠ .ready) : closeCommand tag x = answer 7 tag .state 0 (jobDetail x) x :=
  if_pos other

theorem closeCommand_high (ready : x.ctl.job = .ready) (high : queueCause x = true) :
    closeCommand tag x = answer 7 tag .queueHigh 0 (levelDetail x) x :=
  (if_neg fun h => h ready).trans (if_pos high)

end

/-- After the end of CLOSE a store that was free finds nothing to do. -/
theorem chooseNext_closeEnd {c : State} {a : SectorId} (free : FreeFor c.store a) (empty : c.store.queue = [])
    (low : c.store.lowest .full = none) : chooseNext (closeEnd c) = closeEnd c := by
  have warned := closeEnd_warned c
  generalize closeEnd c = u at *
  cases may : mayStart u.store with
  | false => exact chooseNext_of_not_mayStart may
  | true =>
    have idle : compactionStart u.store = none := by
      have same : ({ u.store with phase := c.store.phase, quiesced := c.store.quiesced } : Store) = c.store := by
        rw [warned.rest]
      have start := compactionStart_freeFor free
      refine compactionStart_none (by rw [warned.rest]; exact free.2.2.2.2.1) (.inl ?_)
      rw [Bool.eq_false_iff, Ne, compactionNeeded_iff (by rw [warned.rest]; exact free.2.2.2.2.1)]
      have active : u.store.active = some a := by rw [warned.rest]; exact free.2.2.2.2.2.1
      have room : 32 < Sector.free (u.store.array.get a) := by rw [warned.rest]; exact free.2.2.2.2.2.2
      rw [active]
      rintro (h | ⟨b, h, few⟩)
      · cases h
      · cases h
        omega
    have none_full : u.store.lowest .full = none := by rw [warned.rest]; exact low
    rw [chooseNext, choose_idle may idle (by rw [warned.rest]; exact empty), eraseStart_none none_full]
    rfl

theorem chooseIfLeft_same {s u : State} (h : s.store.quiesced = false ∨ u.store.quiesced = s.store.quiesced ∨
    mayStart u.store = false) : chooseIfLeft s u = u := by
  unfold chooseIfLeft
  split
  next left =>
    rcases h with awake | same | stopped
    · simp [awake] at left
    · simp [same] at left
    · exact chooseNext_of_not_mayStart stopped
  next => rfl

/-- What CLOSE leaves where it ends at once, whichever record of its own it ends with. -/
theorem jobEnded_of_record {r : ResultCode} {d : Word} {c c' u : State} (h : JobEnded r d c' u) {p p' : PendingCommand}
    (waiting : c.ticket.waiting = some p) (waiting' : c'.ticket.waiting = some p') (tag : p'.tag = p.tag)
    (echo : p'.echo1 = p.echo1 ∧ p'.echo2 = p.echo2)
    (same : c' = { c with store := c'.store, ticket := { c.ticket with waiting := c'.ticket.waiting } }) :
    JobEnded r d c u := by
  obtain ⟨control, ticket, streams, pipe, timer, tally, spoil, path, lines⟩ := h
  refine ⟨?_, fun q hq => ?_, streams, pipe, timer, tally, ?_, ?_, ?_⟩
  · rw [control, same]
  · obtain rfl : p = q := Option.some.inj (waiting.symm.trans hq)
    rw [ticket p' waiting', same, tag, echo.1, echo.2]
  · rw [spoil, same]
  · refine ⟨by rw [path.1, same], fun k => ?_⟩
    rw [path.2 k, same]
    rfl
  · rw [lines, same]

section
variable {w : CommandWrite} {t : Ticket} {s : State}

theorem closingState_store : (closingState w t s).setStore s.store = closingState w t s := rfl

theorem closingState_waiting : (closingState w t s).ticket.waiting = some (waitingClose w s) := rfl

/-- CLOSE with no close append left ends at once. -/
theorem closing_ends (none_left : s.store.queue.any Request.isCloseAppend = false) :
    closeIfDone (closingState w t s) = closeEnd (closingState w t s) :=
  closeIfDone_ends (c := closingState w t s) rfl rfl rfl none_left

theorem closing_ended (outside : s.ctl.inOperation = false) :
    JobEnded .done 0 (closingState w t s) (closeEnd (closingState w t s)) :=
  (closeEnd_closed (c := closingState w t s) outside).ended closingState_waiting rfl

end

/-- Settles O24, by the job state, then by what the store makes of the close appends. -/
theorem closeAnswered : Obligations.CloseAnswered := by
  intro w s takes
  rw [exec_close takes]
  refine ⟨fun other => congrArg _ (closeCommand_state (x := arrived 7 w s) _ other),
    fun ready high => congrArg _ (closeCommand_high (x := arrived 7 w s) _ ready (queueCause_iff.2 high)),
    fun ready low outside t active => ?_⟩
  have accepted := closeCommand_accepts w t outside ready low active
  rw [accepted, closeRequests_eq w t s, ← booked_filter]
  have asked : ∀ i, i ∈ fours.filter t.booked ↔ Booked t i := fun i => by simp [mem_fours, booked_iff]
  have few : (fours.filter t.booked).length ≤ 4 := List.length_filter_le ..
  have sorted : (fours.filter t.booked).Pairwise (· < ·) := fours_sorted.filter _
  generalize fours.filter t.booked = is at *
  refine ⟨?_, ?_, ?_, ?_, ?_, ?_⟩
  · rintro ⟨i, booked⟩ blocked room works
    have some_asked : is ≠ [] := List.ne_nil_of_mem ((asked i).2 booked)
    have joined := askCloses_blocked t (c := closingState w t s) some_asked works blocked (by omega)
    rw [closingState_store] at joined
    rw [joined, chooseIfLeft_same (by exact .inr (.inl rfl))]
    rfl
  · intro a q r rest body free empty fresh split rowless hb still
    obtain ⟨qs, ys, rfl, rfl, last⟩ := List.map_eq_append_iff.1 split
    obtain ⟨i, js, rfl, rfl, rfl⟩ := List.map_eq_cons_iff.1 last
    have starts := askCloses_starts t (c := closingState w t s) free empty fresh (qs := qs) (rest := js) (i := i)
      (by simp at few; omega) (fun j hj => rowless _ (List.mem_map_of_mem hj)) hb
      (still.imp_left fun none => List.map_eq_nil_iff.1 none)
    rw [closingState_store] at starts
    rw [starts, chooseIfLeft_same (.inl free.2.2.1)]
    rfl
  · intro a i r rest free empty fresh split more rowless full
    obtain ⟨j, js, rfl, rfl, rfl⟩ := List.map_eq_cons_iff.1 split
    have others : js ≠ [] := fun none => more (by rw [none]; rfl)
    have first := askClose_rowless t (c := closingState w t s) free empty fresh (i := j) rowless
    have joined := askCloses_blocked t (c := closingState w t s) others (st := eraseStarted s.store i) free.2.2.2.1
      (.inl (by simp [eraseStarted])) (by simp [eraseStarted, empty] at few ⊢; omega)
    rw [closingState_store, eraseStart_some full] at first
    rw [askCloses_cons t others, first, joined, chooseIfLeft_same (.inl free.2.2.1), show (eraseStarted s.store i).queue = []
      from empty]
    rfl
  · intro a free empty fresh rowless low
    have ends := askCloses_ends t (c := closingState w t s) free empty fresh (is := is)
      (fun j hj => rowless _ (List.mem_map_of_mem hj)) low
    rw [closingState_store, closing_ends (by rw [empty]; rfl),
      chooseNext_closeEnd (c := closingState w t s) free empty low, ite_self] at ends
    have warned := closeEnd_warned (closingState w t s)
    refine ⟨_, rfl, ?_⟩
    rw [ends, chooseIfLeft_same (.inl free.2.2.1)]
    exact ⟨closing_ended outside, by rw [warned.rest]; rfl, by rw [warned.rest]; rfl, closeEnd_queue (c := closingState w t s)
      outside, fun same => (closeEnd_calm (c := closingState w t s) outside same).1⟩
  · intro none none_left
    obtain rfl : is = [] := List.eq_nil_iff_forall_not_mem.2 fun i hi => none i ((asked i).1 hi)
    refine ⟨_, rfl, ?_⟩
    rw [askCloses, closing_ends none_left]
    have taken := closeEnd_left (c := closingState w t s) (c' := s) outside rfl
    have closed : Closed (closingState w t s) (chooseIfLeft s (closeEnd (closingState w t s))) := taken.rest
    refine ⟨closed.ended closingState_waiting rfl, taken.table.trans (congrArg Store.table (closeReplied_store _)),
      taken.array.trans (congrArg Store.array (closeReplied_store _)),
      taken.queue.trans (congrArg Report.queue (closeReplied_report _)), fun same => ?_⟩
    obtain ⟨store, report⟩ := taken.calm (same.trans (congrArg LineMonitor.pwrwarn (closeReplied_lines (closingState w t s))).symm)
    exact ⟨store.trans (closeReplied_store _), report.trans (closeReplied_report _)⟩
  · rintro ⟨f, failed⟩ none_left i booked lower
    have head : is.head? = some i := by
      have mem := (asked i).2 booked
      cases is with
      | nil => cases mem
      | cons j js =>
        rcases List.mem_cons.1 mem with same | later
        · exact congrArg some same.symm
        · exact absurd ((asked j).1 List.mem_cons_self) (lower j ((List.pairwise_cons.1 sorted).1 i later))
    refine ⟨_, rfl, ?_⟩
    rw [askCloses_failed t (c := closingState w t s) sorted failed closingState_waiting fun j h => by cases h]
    generalize hd : closesFailed t is (waitingClose w s) ((waitingClose w s).failed.or is.head?) (closingState w t s) = d
    have fails : d.store.phase = .failed f := by rw [← hd]; exact failed
    have record : d.ticket.waiting = some { waitingClose w s with failed := some i } := by
      rw [← hd, head]
      rfl
    have warned := closeEnd_warned d
    have off : d.ctl.inOperation = false := by rw [← hd]; exact outside
    rw [closeIfDone_ends record rfl (by rw [← hd]; rfl) (by rw [← hd]; exact none_left), chooseIfLeft_same
      (.inr (.inr (by rw [Bool.eq_false_iff, Ne, mayStart_iff]; exact fun h => h.2.2.1 f ((warned.failed f).2 fails))))]
    refine ⟨jobEnded_of_record ((closeEnd_closed off).ended record rfl) closingState_waiting record rfl ⟨rfl, rfl⟩
      (by rw [← hd]; rfl), ?_, by rw [warned.rest, ← hd]; rfl, by rw [warned.rest, ← hd]; rfl, ?_, ?_⟩
    · rw [(warned.failed f).2 fails, failed]
    · rw [closeEnd_queue off, ← hd]
      rfl
    · rw [warned.rest, ← hd]
      rfl

end Sys2Proof.Machine
end

section
/-! PROOFS. A choice over writable requests, the FAILED store, and erases completed (R134, R136, R141). -/

namespace Sys2Proof.Machine
open Sys2Proof.Safety

/-! ## A choice whose head request can be written -/

/-- The store with an operation chosen: the requests, the table, the array and the store's state stay. -/
structure Picked (s t : Store) : Prop where
  rest : t = { s with
    op := t.op, lastSeq := t.lastSeq, compaction := t.compaction, sectors := t.sectors, fullWait := t.fullWait }
  chosen : Chosen s t

theorem Picked.refl (s : Store) : Picked s s := ⟨rfl, .refl s⟩

theorem eraseStart_picked (st : Store) : Picked st (eraseStart st) := by
  refine ⟨?_, eraseStart_chosen st⟩
  unfold eraseStart
  split <;> rfl

theorem compactionStart_picked {s t : Store} (h : compactionStart s = some t) : Picked s t := by
  refine ⟨?_, compactionStart_chosen h⟩
  unfold compactionStart at h
  split at h
  · cases h
    rfl
  · split at h
    · split at h <;> cases h
      rfl
    · cases h

theorem appendStart_picked {s t : Store} {body : EntryBody} (h : appendStart s body = some t) : Picked s t := by
  refine ⟨?_, appendStart_chosen h⟩
  unfold appendStart at h
  split at h
  · split at h <;> cases h
    rfl
  · cases h

/-- What a choice over a writable head request brings about. -/
inductive Picks (s : State) : State → Prop
  | calm (st : Store) (picked : Picked s.store st) (same : st.fullWait = s.store.fullWait) : Picks s (s.setStore st)
  | waits (st : Store) (picked : Picked s.store st) (off : s.store.fullWait = false) (on : st.fullWait = true) :
      Picks s (raise .storeFault 0 0 (s.setStore st))

theorem Picks.store {s u : State} (h : Picks s u) : Picked s.store u.store := by
  cases h with
  | calm st picked same => exact picked
  | waits st picked off on =>
    rw [raise_store]
    exact picked

theorem waitFull_picks (s : State) : Picks s (waitFull s) := by
  have on : (eraseStart { s.store with fullWait := true }).fullWait = true := eraseStart_fullWait _
  have picked : Picked s.store (eraseStart { s.store with fullWait := true }) := by
    have started := eraseStart_picked { s.store with fullWait := true }
    refine ⟨by rw [started.rest], Chosen.trans ?_ started.chosen⟩
    exact ⟨rfl, rfl, List.suffix_rfl, fun _ => .inl rfl, .inl rfl, fun _ => .rfl⟩
  unfold waitFull
  dsimp only
  split
  next was => exact .calm _ picked (on.trans was.symm)
  next off => exact .waits _ picked (Bool.eq_false_iff.2 off) on

/-- Where the head request can be written, nobody is told anything. -/
theorem chooseFrom_picks (told : State → State) (n : Nat) {s : State}
    (writable : ∀ r, s.store.queue.head? = some r → (appendBody s.store r).isSome = true) :
    Picks s (chooseFrom told n s) := by
  have stays : Picks s s := .calm s.store (.refl _) rfl
  cases n with
  | zero => exact stays
  | succ n =>
    unfold chooseFrom
    split
    · split
      next st start => exact .calm st (compactionStart_picked start) (compactionStart_fullWait start)
      next =>
        unfold chooseAppend
        split
        · exact .calm _ (eraseStart_picked _) (eraseStart_fullWait _)
        next r head =>
          split
          next rowless =>
            have := writable r head
            rw [rowless] at this
            cases this
          next body _ =>
            split
            next st start => exact .calm st (appendStart_picked start) (appendStart_fullWait start)
            next =>
              split
              · exact waitFull_picks s
              · exact .calm _ (eraseStart_picked _) (eraseStart_fullWait _)
    · exact stays

theorem chooseNext_picks {s : State} (writable : AllWritable s.store) : Picks s (chooseNext s) :=
  chooseFrom_picks _ _ fun r head => writable r (List.mem_of_mem_head? head)

/-! ## The phase across a choice -/

theorem closeIfDone_phase {s : State} (awake : s.store.quiesced = false) : (closeIfDone s).store.phase = s.store.phase := by
  have inactive : ∀ x : State, x.store.quiesced = false → (powerInactive x).store.phase = x.store.phase := fun x hx => by
    unfold powerInactive
    rw [if_neg (by rw [State.setLines_store, hx]; decide)]
    rfl
  have active : ∀ x : State, (powerActive x).store.phase = x.store.phase := fun x => by
    cases phase : x.store.phase with
    | failed c => rw [powerActive_failed phase, raise_store, phase]
    | recovering | inService => rw [powerActive_works (by simp [phase])]; exact phase
  have taken : ∀ t (x : State), x.store.quiesced = false → (setSettings t x).store.phase = x.store.phase := fun t x hx => by
    rw [setSettings_eq]
    split
    · split
      · rw [active, settingsTaken_store]
      · rw [inactive _ (by rw [settingsTaken_store]; exact hx), settingsTaken_store]
    · rw [settingsTaken_store]
  unfold closeIfDone
  split
  · split
    · rw [closeEnd_eq, taken _ _ (by rw [jobDropped_store, closeReplied_store]; exact awake), jobDropped_store,
        closeReplied_store]
    · rfl
  · rfl

theorem chooseFrom_phase (n : Nat) (s : State) : (chooseFrom closeIfDone n s).store.phase = s.store.phase := by
  induction n generalizing s with
  | zero => rfl
  | succ n ih =>
    unfold chooseFrom
    split
    next may =>
      have awake := ((mayStart_iff _).1 may).2.1
      split
      next st start =>
        have picked := compactionStart_picked start
        rw [State.setStore_store, picked.rest]
      next =>
        unfold chooseAppend
        split
        · rw [State.setStore_store, (eraseStart_picked _).rest]
        · split
          · exact (ih _).trans (closeIfDone_phase (s := dropHead s) awake)
          · split
            next st start =>
              have picked := appendStart_picked start
              rw [State.setStore_store, picked.rest]
            next =>
              split
              · rw [(waitFull_picks s).store.rest]
              · rw [State.setStore_store, (eraseStart_picked _).rest]
    next => rfl

theorem chooseNext_phase (s : State) : (chooseNext s).store.phase = s.store.phase := chooseFrom_phase _ s

/-! ## The fault flags across notices and choices -/

theorem keepsFlags_claim {c : Claim} (h : c ≠ .drained) (s : State) : KeepsFlags s (claim c s) := by
  obtain ⟨p, j, eq⟩ := claim_changes h s
  exact .of_eq (by rw [eq]; rfl)

theorem Stocked.keepsFlags {s u : State} (h : Stocked s u) : KeepsFlags s u := by
  cases h with
  | calm => exact .of_eq rfl
  | waits => exact keepsFlags_raise .storeFault 0 0 s

theorem holdTest_report (s : State) : (holdTest s).report = s.report := (holdTest_restOf s).2.2.2.2.2.2.2

theorem keepsFlags_setSettings (t : Option Ticket) (s : State) : KeepsFlags s (setSettings t s) := by
  have taken : (settingsTaken t s).report = s.report := by
    unfold settingsTaken
    split
    · unfold holdreqTo
      dsimp only
      split
      · exact holdTest_report _
      · rfl
    · rfl
  rw [setSettings_eq]
  refine KeepsFlags.trans (t := settingsTaken t s) (.of_eq taken) ?_
  generalize settingsTaken t s = x
  split
  · split
    · by_cases works : ∀ c, x.store.phase ≠ .failed c
      · rw [powerActive_works works]
        exact keepsFlags_raise .powerWarn 0 0 { x with lines := { x.lines with pwrwarn := true } }
      · obtain ⟨c, failed⟩ := not_forall_not.1 works
        rw [powerActive_failed failed]
        exact keepsFlags_raise .powerWarn 0 0 { x with lines := { x.lines with pwrwarn := true } }
    · obtain ⟨st, h⟩ := powerInactive_eq x
      exact .of_eq (by rw [h])
  · exact .refl x

theorem keepsFlags_closeIfDone (s : State) : KeepsFlags s (closeIfDone s) := by
  unfold closeIfDone
  split
  · split
    · rw [closeEnd_eq]
      exact KeepsFlags.trans (t := jobDropped (closeReplied s)) (.of_eq (closeReplied_report s)) (keepsFlags_setSettings none _)
    · exact .refl s
  · exact .refl s

theorem keepsFlags_chooseNext (s : State) : KeepsFlags s (chooseNext s) :=
  chooseFrom_rel (R := KeepsFlags) .refl (fun _ _ _ => .trans) (fun _ _ _ => .of_eq rfl) (keepsFlags_raise _ _ _)
    keepsFlags_closeIfDone _ s

theorem endRecovery_report (s : State) : (endRecovery s).report = s.report := by
  unfold endRecovery
  split <;> rfl

/-! ## The store FAILED (R141) -/

/-- In a FAILED store that is not QUIESCED a notice changes at most the table. -/
def TableOnly (s t : State) : Prop := t.store = { s.store with table := t.store.table }

theorem TableOnly.of_eq {s t : State} (h : t.store = s.store) : TableOnly s t := by
  unfold TableOnly
  rw [h]

theorem drawRequests_failed {t : Ticket} {a : DrawAnswer} {s : State} {c : FailCause} (failed : s.store.phase = .failed c) :
    (drawRequests t a s).store = s.store := by
  have nodup : fours.Nodup := by decide
  cases a with
  | drawn =>
    refine (congrArg State.store (drawnRequests_eq t s)).trans (asksBy_failed t _ nodup failed).1
  | uncovered =>
    refine (congrArg State.store (uncoveredRequests_eq t s)).trans (asksBy_failed t _ nodup failed).1
  | waiting | exhausted => rfl

theorem claim_store {c : Claim} (h : c ≠ .drained) (s : State) : (claim c s).store = s.store := by
  obtain ⟨p, j, eq⟩ := claim_changes h s
  rw [eq]
  rfl

theorem drawForSet_store (t : Ticket) (s : State) : (drawForSet t s).2.2.store = s.store := by
  unfold drawForSet
  split
  · rfl
  · split <;> rfl

theorem resolvePending_failed {s : State} {c : FailCause} (failed : s.store.phase = .failed c) :
    (resolvePending s).store = s.store := by
  unfold resolvePending
  split
  next t stamp cs ps _ _ =>
    have draw := drawForSet_store t s
    split
    · dsimp only
      split
      · exact (drawRequests_failed (c := c) (s := replaceZero _ (countOpened (drawForSet t s).2.2))
          ((congrArg Store.phase draw).trans failed)).trans draw
      · exact draw
      · rw [raise_store, drawRequests_failed (c := c)]
        · rw [blankPending_eq]
          exact draw
        · rw [blankPending_eq]
          exact (congrArg Store.phase draw).trans failed
      · rw [claim_store (by simp), blankPending_eq]
        exact draw
    · rfl
  · rfl

theorem noteFailedClose_store (i : StreamId) (s : State) : (noteFailedClose i s).store = s.store := by
  unfold noteFailedClose
  split <;> rfl

theorem failureNotice_tableOnly (r : Request) {s : State} {c : FailCause} (failed : s.store.phase = .failed c)
    (awake : s.store.quiesced = false) : TableOnly s (failureNotice r s) := by
  cases r with
  | reservation i book dir l => exact .of_eq (resolvePending_failed (s := setStream i _ s) failed)
  | closeAppend i book dir d =>
    have store : (closeFailed i book s).store = { s.store with table := tableAfterFailedClose book s.store.table } :=
      noteFailedClose_store i _
    have calm := (closeIfDone_warned (closeFailed i book s)).calm c (by rw [store]; exact failed) (by rw [store]; exact awake)
    change (closeIfDone (closeFailed i book s)).store = { s.store with
      table := (closeIfDone (closeFailed i book s)).store.table }
    rw [calm, store]
  | recoveryClose book => exact .of_eq rfl
  | retire book => exact .of_eq (endPending_store ..)

/-- Once FAILED, the requests removed leave the store's other fields. -/
theorem removeAll_store (rs : List Request) {s : State} {c : FailCause} (failed : s.store.phase = .failed c)
    (awake : s.store.quiesced = false) :
    (removeAll rs s).store = { s.store with table := (removeAll rs s).store.table, queue := [] } := by
  induction rs generalizing s with
  | nil => rfl
  | cons r rs ih =>
    have step := failureNotice_tableOnly r (s := s.setStore { s.store with queue := rs }) failed awake
    unfold TableOnly at step
    rw [removeAll]
    generalize failureNotice r (s.setStore { s.store with queue := rs }) = u at step
    have rest := ih (s := u) (by rw [step]; exact failed) (by rw [step]; exact awake)
    generalize removeAll rs u = v at rest
    rw [rest, step]
    rfl

theorem becomeFailed_store (c : FailCause) (s : State) : (becomeFailed c s).store = { s.store with
    phase := .failed c, quiesced := false, retried := false, table := (becomeFailed c s).store.table, queue := [] } := by
  have gone := removeAll_store s.store.queue
    (s := s.setStore { s.store with phase := .failed c, quiesced := false, retried := false }) rfl rfl
  have eq : (becomeFailed c s).store = (removeAll s.store.queue
      (s.setStore { s.store with phase := .failed c, quiesced := false, retried := false })).store := raise_store ..
  rw [eq]
  exact gone

theorem becomeFailed_flag (c : FailCause) (s : State) : (becomeFailed c s).report.flags.getLsbD 16 = true :=
  raise_sets .storeFault ..

/-! ## Erases completed (R136) -/

theorem usable_set_bad (st : Store) (i : SectorId) (x : Four Sector) :
    usable { st with array := x, sectors := st.sectors.set i .bad, op := none } =
      (fours.filter fun j => decide (j ≠ i ∧ st.sectors.get j ≠ .bad)).length := by
  refine congrArg List.length (List.filter_congr fun j _ => ?_)
  dsimp only
  by_cases same : j = i
  · subst same
    simp [Four.get_set_same]
  · rw [Four.get_set_other _ _ (Ne.symm same)]
    cases st.sectors.get j <;> simp [same]

/-- Settles O57, by the erase's result. -/
theorem eraseCompletes : Obligations.EraseCompletes := by
  intro s i kept torn op
  refine ⟨⟨_, exec_eraseCompletion .erased op, ?_⟩, ⟨_, exec_eraseCompletion (.failed kept torn) op, ?_⟩⟩
  · have chosen := finishErase_chosen .erased ((begin s).setStore { eraseVerified i .erased s.store with op := none })
      (.inl rfl)
    refine ⟨chosen.array, ?_, fun works c failed => works c ((chosen.failed c).1 failed)⟩
    have erased : ((begin s).setStore { eraseVerified i .erased s.store with op := none }).store.sectors.get i = .erased :=
      Four.get_set_same ..
    rcases chosen.sectors i with same | ⟨full, -⟩
    · rw [same, erased]
    · rw [erased] at full
      cases full
  · generalize hx : (begin s).setStore { eraseVerified i (.failed kept torn) s.store with op := none } = x
    have store : x.store = { s.store with
        array := s.store.array.set i (Sector.partErased kept torn (s.store.array.get i))
        sectors := s.store.sectors.set i .bad, op := none } := by rw [← hx]; rfl
    have bad : x.store.sectors.get i = .bad := by rw [store]; exact Four.get_set_same ..
    have left : (finishErase (.failed kept torn) x).store.array = x.store.array ∧
        (finishErase (.failed kept torn) x).store.sectors.get i = .bad ∧
        (usable x.store < 2 → (finishErase (.failed kept torn) x).store.phase = .failed .sectors ∧
          (finishErase (.failed kept torn) x).report.flags.getLsbD 16 = true) := by
      by_cases few : usable x.store < 2
      · rw [finishErase, if_pos ⟨by simp, few⟩, settle_store]
        have failed := becomeFailed_store .sectors x
        refine ⟨by rw [failed], by rw [failed]; exact bad, fun _ => ⟨by rw [failed], ?_⟩⟩
        exact keepsFlags_settle _ _ (becomeFailed_flag ..)
      · have chosen := finishErase_chosen (.failed kept torn) x (.inr (by omega))
        refine ⟨chosen.array, ?_, fun h => absurd h few⟩
        rcases chosen.sectors i with same | ⟨full, -⟩
        · rw [same, bad]
        · rw [bad] at full
          cases full
    obtain ⟨array, sector, fails⟩ := left
    rw [array, store]
    refine ⟨sector, fun j other => Four.get_set_other _ _ (Ne.symm other), fun wf m => ?_, fun few => fails ?_⟩
    · dsimp only
      rw [Four.get_set_same, slot_partErased _ _ wf]
    · rw [store, usable_set_bad]
      exact few

end Sys2Proof.Machine
end

section
/-! PROOFS. The end of a reset: the recovery scan, and the events recovery ends at (R142 to R144). -/

namespace Sys2Proof.Machine
open Sys2Proof.Safety

/-! ## The end of recovery -/

/-- Recovery ends: an ACTIVE sector exists, no recovery close is left, and the store is not QUIESCED. -/
abbrev RecoveryOver (st : Store) : Prop :=
  st.phase = .recovering ∧ st.quiesced = false ∧ st.active ≠ none ∧ ∀ r ∈ st.queue, r.isRecoveryClose = false

theorem recoveryOver_iff (st : Store) : RecoveryOver st ↔ st.phase = .recovering ∧ st.quiesced = false ∧
    st.active.isSome = true ∧ st.queue.any Request.isRecoveryClose = false := by
  unfold RecoveryOver
  rw [Option.isSome_iff_ne_none, List.any_eq_false]
  simp

theorem endRecovery_over {s : State} (finished : RecoveryOver s.store) :
    endRecovery s = { s with store := { s.store with phase := .inService } } := if_pos ((recoveryOver_iff _).1 finished)

theorem endRecovery_on {s : State} (on : ¬RecoveryOver s.store) : endRecovery s = s :=
  if_neg fun h => on ((recoveryOver_iff _).2 h)

/-- A completion whose notices leave recovery over or not: the phase afterwards. -/
theorem finishOperation_phase {seq : Word} (more : seq ≠ 0xFFFFFFFE) {x : State} (recovering : x.store.phase = .recovering)
    (awake : x.store.quiesced = false) (active : x.store.active ≠ none) : (finishOperation seq x).store.phase =
      if ∃ r ∈ x.store.queue, r.isRecoveryClose = true then .recovering else .inService := by
  rw [finishOperation]
  dsimp only
  rw [if_neg (show ¬seq = Config.lastSequence from more), settle_store, chooseNext_phase]
  split
  next left =>
    rw [endRecovery_on]
    · exact recovering
    · rintro ⟨-, -, -, none⟩
      obtain ⟨r, hr, close⟩ := left
      rw [none r hr] at close
      cases close
  next cleared =>
    rw [endRecovery_over (s := x.setStore { x.store with op := none }) ⟨recovering, awake, active, fun r hr => by
      simpa using fun close => cleared ⟨r, hr, close⟩⟩]

/-! ## The books the scan finds OPEN (R144) -/

theorem pushRecord_store (r : Record) (s : State) : (pushRecord r s).store = s.store := by
  unfold pushRecord
  dsimp only
  split
  · exact claim_store (by simp) _
  · rfl

theorem pushRecord_resetting (r : Record) (s : State) : (pushRecord r s).resetting = s.resetting := by
  unfold pushRecord
  dsimp only
  split
  · obtain ⟨p, j, eq⟩ := claim_changes (c := .queueHigh) (by simp) (s.setReport { s.report with
      queue := s.report.queue ++ [r] })
    rw [eq]
    rfl
  · rfl

/-- Each OPEN book in turn gives its record and, while there is room, its recovery close. -/
theorem foldl_recoverBook (rows : List BookRow) {s : State} (works : ∀ c, s.store.phase ≠ .failed c) :
    (rows.foldl recoverBook s).store = { s.store with queue := s.store.queue ++
      (rows.map fun r => Request.recoveryClose r.book).take (40 - s.store.queue.length) } ∧
    (rows.foldl recoverBook s).report.queue = s.report.queue ++ rows.map (fun r => Record.recovery r.book r.high) ∧
    (rows.foldl recoverBook s).resetting = s.resetting := by
  induction rows generalizing s with
  | nil => simp
  | cons r rows ih =>
    have store := pushRecord_store (.recovery r.book r.high) s
    have queue : (pushRecord (.recovery r.book r.high) s).report.queue = s.report.queue ++ [.recovery r.book r.high] := by
      rw [pushRecord_report]
    have reset := pushRecord_resetting (.recovery r.book r.high) s
    rw [List.foldl_cons, recoverBook]
    generalize pushRecord (.recovery r.book r.high) s = u at store queue reset
    dsimp only
    rw [refuses_works (by rw [store]; exact works), store]
    by_cases full : 40 ≤ s.store.queue.length
    · rw [if_pos (decide_eq_true full)]
      obtain ⟨store', queue', reset'⟩ := ih (s := u) (by rw [store]; exact works)
      refine ⟨?_, ?_, reset'.trans reset⟩
      · rw [store', store, show 40 - s.store.queue.length = 0 by omega, List.take_zero, List.take_zero]
      · rw [queue', queue, List.append_assoc]
        rfl
    · rw [if_neg (by simpa using full)]
      obtain ⟨store', queue', reset'⟩ := ih (s := u.setStore { s.store with
        queue := s.store.queue ++ [.recoveryClose r.book] }) works
      refine ⟨?_, ?_, reset'.trans reset⟩
      · rw [store', List.map_cons, show 40 - s.store.queue.length = (40 - (s.store.queue.length + 1)) + 1 by omega,
          List.take_succ_cons, State.setStore_store, List.length_append, List.append_assoc]
        rfl
      · rw [queue', State.setStore_report, queue, List.append_assoc]
        rfl

theorem removeAll_recovery {rs : List Request} (closes : ∀ r ∈ rs, r.isRecoveryClose = true) (s : State) :
    removeAll rs s = s.setStore { s.store with queue := [] } := by
  induction rs generalizing s with
  | nil => rfl
  | cons r rs ih =>
    have notice : ∀ x, failureNotice r x = x := fun x => by
      have close := closes r List.mem_cons_self
      cases r with
      | recoveryClose book => rfl
      | reservation | closeAppend | retire => cases close
    rw [removeAll, notice, ih fun q hq => closes q (List.mem_cons_of_mem _ hq)]
    rfl

/-- The part after the scan's records and recovery closes. -/
def booksRecovered (s : State) : State :=
  ((scanned s.store).table.filter (·.opened)).foldl recoverBook (s.setStore (scanned s.store))

theorem scan_eq (s : State) : scan s = if (booksRecovered s).store.lastSeq = Config.lastSequence then
    becomeFailed .worn (booksRecovered s) else chooseNext (endRecovery (booksRecovered s)) := rfl

theorem exec_recoveryScan_scans {s : State} (line : s.resetting = false) (unmade : s.store.scanMade = false) :
    exec .recoveryScan s = .next (scan (quiet s)) := by
  rw [exec_recoveryScan, if_neg (by rw [line, unmade]; decide)]
  rfl

theorem picks_queue {s u : State} (h : Picks s u) : u.report.queue = s.report.queue := by
  cases h with
  | calm => rfl
  | waits =>
    rw [raise_queue]
    rfl

/-- Settles O10: the scan, the end of recovery, and the completions it may come at. -/
theorem recoveryScanEndsReset : Obligations.RecoveryScanEndsReset := by
  refine ⟨fun s h => ?_, ?_, fun s => ⟨fun recovering awake active none => endRecovery_over ⟨recovering, awake, active, none⟩,
    fun on => endRecovery_on ?_⟩, ?_, ?_⟩
  · rw [exec_recoveryScan, if_pos (by simpa using h)]
    rfl
  · rintro s opened hopened line unmade op empty idle recovering awake
    refine ⟨_, exec_recoveryScan_scans line unmade, ?_⟩
    have works : ∀ c, (scanned s.store).phase ≠ .failed c := fun c failed => by cases recovering.symm.trans failed
    obtain ⟨store, records, reset⟩ := foldl_recoverBook opened (s := (quiet s).setStore (scanned s.store)) works
    have books : opened.foldl recoverBook ((quiet s).setStore (scanned s.store)) = booksRecovered (quiet s) := by
      rw [hopened]
      rfl
    rw [books] at store records reset
    rw [scan_eq]
    generalize booksRecovered (quiet s) = x at *
    have no_queue : (scanned s.store).queue = [] := empty
    rw [State.setStore_store, no_queue, List.nil_append, List.length_nil, Nat.sub_zero] at store
    have closes : ∀ r ∈ x.store.queue, ∃ row ∈ opened, r = .recoveryClose row.book := fun r hr => by
      rw [store] at hr
      obtain ⟨row, hrow, rfl⟩ := List.mem_map.1 (List.mem_of_mem_take hr)
      exact ⟨row, hrow, rfl⟩
    by_cases worn : (scanned s.store).lastSeq = 0xFFFFFFFE
    · rw [if_pos (show x.store.lastSeq = Config.lastSequence by rw [store]; exact worn)]
      have gone : becomeFailed .worn x = raise .storeFault 0 0 (x.setStore { x.store with
          phase := .failed .worn, quiesced := false, retried := false, queue := [] }) := by
        rw [becomeFailed]
        dsimp only
        rw [removeAll_recovery fun r hr => by obtain ⟨row, -, rfl⟩ := closes r hr; rfl]
        rfl
      rw [gone, raise_store, raise_resetting, raise_queue]
      refine ⟨reset.trans line, by rw [State.setStore_store, store]; rfl, by rw [State.setStore_store, store]; rfl,
        by rw [State.setStore_store, store], fun i => .inl (by rw [State.setStore_store, store]), records,
        fun _ => ⟨rfl, rfl⟩, fun h => absurd worn h⟩
    · rw [if_neg (show ¬x.store.lastSeq = Config.lastSequence by rw [store]; exact worn)]
      have active : x.store.active = (scanned s.store).active := by rw [store]; rfl
      have finished : RecoveryOver x.store ↔ (scanned s.store).active ≠ none ∧ opened = [] := by
        constructor
        · rintro ⟨-, -, here, none⟩
          refine ⟨active ▸ here, List.eq_nil_iff_forall_not_mem.2 fun row hrow => ?_⟩
          cases rows : opened with
          | nil => rw [rows] at hrow; cases hrow
          | cons y ys =>
            have := none (.recoveryClose y.book) (by rw [store, rows]; exact List.mem_cons_self)
            cases this
        · rintro ⟨here, rows⟩
          refine ⟨by rw [store]; exact recovering, by rw [store]; exact awake, active ▸ here, fun r hr => ?_⟩
          obtain ⟨row, hrow, -⟩ := closes r hr
          rw [rows] at hrow
          cases hrow
      have ended : (endRecovery x).store = { x.store with phase :=
          if (scanned s.store).active ≠ none ∧ opened = [] then .inService else .recovering } ∧
          (endRecovery x).resetting = x.resetting ∧ (endRecovery x).report = x.report := by
        by_cases h : RecoveryOver x.store
        · rw [endRecovery_over h, if_pos (finished.1 h)]
          exact ⟨rfl, rfl, rfl⟩
        · have phase : x.store.phase = .recovering := by rw [store]; exact recovering
          rw [endRecovery_on h, if_neg fun k => h (finished.2 k), ← phase]
          exact ⟨rfl, rfl, rfl⟩
      generalize endRecovery x = y at ended
      obtain ⟨ystore, yreset, yreport⟩ := ended
      have writable : AllWritable y.store := fun r hr => by
        rw [ystore] at hr
        obtain ⟨row, hrow, rfl⟩ := closes r hr
        have listed : row ∈ scanTable s.store.array := by
          rw [hopened] at hrow
          exact List.mem_of_mem_filter hrow
        have known : y.store.row row.book = some row := by
          have table : y.store.table = scanTable s.store.array := by rw [ystore, store]; rfl
          rw [Store.row, table]
          exact (find?_book (scanTable_of _).rising).2 ⟨listed, rfl⟩
        rw [appendBody, known]
        rfl
      have picks := chooseNext_picks writable
      have picked := picks.store
      have reset' : (chooseNext y).resetting = y.resetting := (chooseNext_keeps y).resetting
      have report' := picks_queue picks
      have sectors := picked.chosen.sectors
      generalize chooseNext y = z at *
      refine ⟨reset'.trans (yreset.trans (reset.trans line)), by rw [picked.rest, ystore, store]; rfl,
        by rw [picked.rest, ystore, store]; rfl, by rw [picked.rest, ystore, store], fun i => ?_,
        report'.trans ((congrArg Report.queue yreport).trans records), fun h => absurd h worn, fun _ => ⟨fun few => ?_, ?_⟩⟩
      · have before : y.store.sectors = (scanned s.store).sectors := by rw [ystore, store]
        rw [← before]
        exact sectors i
      · rw [picked.rest, ystore, store]
        exact List.take_of_length_le (by simpa using few)
      · rw [picked.rest, ystore]
  · rintro ⟨recovering, awake, active, none⟩
    rcases on with h | h | h | ⟨r, hr, h⟩
    · exact h recovering
    · rw [awake] at h; cases h
    · exact active h
    · rw [none r hr] at h; cases h
  · rintro s i n seq body v b rest op more queue verified recovering awake active
    refine ⟨_, exec_appendCompletion v op, ?_⟩
    have appended : ∀ x : State, x.store.phase = .recovering → x.store.quiesced = false → x.store.active ≠ none →
        x.store.queue = .recoveryClose b :: rest → (v = true ∨ x.store.retried = true) → ∃ y : State,
        appendVerified body v x = y ∧ y.store.phase = .recovering ∧ y.store.quiesced = false ∧ y.store.active ≠ none ∧
        y.store.queue = rest := by
      intro x recovering awake active queue verified
      refine ⟨_, rfl, ?_⟩
      cases v with
      | true =>
        have done : appendVerified body true x = popRequest (x.setStore { x.store with
            table := tableAfter body x.store.table }) := by
          rw [appendVerified, if_pos rfl, appendDone, queue]
          rfl
        rw [done]
        refine ⟨recovering, awake, active, ?_⟩
        change x.store.queue.drop 1 = rest
        rw [queue]
        rfl
      | false =>
        have failed : appendVerified body false x = raise .storeFault 0 0 (popRequest x) := by
          rw [appendVerified, if_neg (by decide), if_pos (verified.resolve_left (by decide)), appendFailed, queue]
          rfl
        rw [failed, raise_store]
        refine ⟨recovering, awake, active, ?_⟩
        change x.store.queue.drop 1 = rest
        rw [queue]
        rfl
    obtain ⟨y, hy, recovering', awake', active', queue'⟩ := appended
      (writeSlot i n { seq, body, sound := v } (begin s)) recovering awake active queue verified
    rw [hy, finishOperation_phase more recovering' awake' active', queue']
  · rintro s i n seq g c op running more recovering awake cleared
    refine ⟨_, exec_stepCompletion true op running, ?_⟩
    have active : ∀ st : Store, (headerDone c st).active ≠ none := fun st => by
      rw [← Option.isSome_iff_ne_none]
      exact List.find?_isSome.2 ⟨c.target, mem_fours _, by simp [headerDone, Store.setSector, Four.get_set_same]⟩
    have still : ∀ st : Store, (headerDone c st).phase = st.phase ∧ (headerDone c st).quiesced = st.quiesced ∧
        (headerDone c st).queue = st.queue := fun st => by
      unfold headerDone
      split <;> exact ⟨rfl, rfl, rfl⟩
    obtain ⟨phase, quiesced, queue⟩ := still (writeSlot i n { seq, body := .header g, sound := true } (begin s)).store
    have ends := finishOperation_phase more
      (x := (writeSlot i n { seq, body := .header g, sound := true } (begin s)).setStore
        (headerDone c (writeSlot i n { seq, body := .header g, sound := true } (begin s)).store)) (phase.trans recovering) (quiesced.trans awake) (active _)
    refine ends.trans (if_neg ?_)
    rintro ⟨r, hr, close⟩
    rw [cleared r (queue ▸ hr)] at close
    cases close

end Sys2Proof.Machine
end

section
/-! PROOFS. Compaction steps completed (R130, R134, R138, R139, R141). -/

namespace Sys2Proof.Machine
open Sys2Proof.Safety

/-! ## After an operation -/

theorem finishOperation_freed {seq : Word} (more : seq ≠ 0xFFFFFFFE) (x : State) : finishOperation seq x = freed x := by
  rw [finishOperation]
  dsimp only
  rw [if_neg (show ¬seq = Config.lastSequence from more)]
  rfl

theorem finishOperation_worn (x : State) :
    (finishOperation 0xFFFFFFFE x).store = { x.store with
      op := none, phase := .failed .worn, quiesced := false, retried := false,
      table := (finishOperation 0xFFFFFFFE x).store.table, queue := [] } ∧
    (finishOperation 0xFFFFFFFE x).report.flags.getLsbD 16 = true := by
  have eq : finishOperation 0xFFFFFFFE x = settle (becomeFailed .worn (x.setStore { x.store with op := none })) :=
    congrArg settle (if_pos (show (0xFFFFFFFE : Word) = Config.lastSequence from rfl))
  rw [eq, settle_store]
  exact ⟨becomeFailed_store .worn _, keepsFlags_settle _ _ (becomeFailed_flag ..)⟩

theorem freed_chosen (x : State) : Chosen { x.store with op := none } (freed x).store := by
  rw [freed, settle_store]
  exact (endRecovery_chosen { x with store := { x.store with op := none } }).trans (chooseNext_chosen _)

/-- What the end of an operation leaves of the array, the sectors and the record of the compaction, whatever follows. -/
structure Left (st t : Store) : Prop where
  array : t.array = st.array
  sectors : ∀ i, t.sectors.get i = st.sectors.get i ∨ (st.sectors.get i = .full ∧ t.sectors.get i = .erasing)
  compaction : t.compaction = st.compaction ∨
    ∃ i, st.sectors.get i = .erased ∧ t.compaction = some { target := i, todo := st.table, retried := false }

theorem finishOperation_left (seq : Word) (x : State) : Left x.store (finishOperation seq x).store := by
  by_cases last : seq = 0xFFFFFFFE
  · subst last
    have worn := (finishOperation_worn x).1
    exact ⟨by rw [worn], fun _ => .inl (by rw [worn]), .inl (by rw [worn])⟩
  · rw [finishOperation_freed last]
    have chosen := freed_chosen x
    exact ⟨chosen.array, chosen.sectors, chosen.compaction⟩

theorem settle_unheld {s : State} (empty : ∀ k, (feeder s k).queue = []) : settle s = s :=
  settle_idle fun k => by rw [headReady, empty]

/-- Freed with writable requests and nothing held: only the wait of R137, newly found, reaches the report block. -/
theorem freed_report {x : State} (writable : AllWritable x.store) (empty : ∀ k, (feeder x k).queue = [])
    (same : (freed x).store.fullWait = x.store.fullWait) : (freed x).report = x.report := by
  have ended : ∀ y : State, (endRecovery y).path = y.path ∧ (endRecovery y).report = y.report ∧
      (endRecovery y).store.table = y.store.table ∧ (endRecovery y).store.queue = y.store.queue ∧
      (endRecovery y).store.fullWait = y.store.fullWait := fun y => by
    unfold endRecovery
    split <;> exact ⟨rfl, rfl, rfl, rfl, rfl⟩
  obtain ⟨path, report, table, queue, wait⟩ := ended { x with store := { x.store with op := none } }
  rw [freed] at same ⊢
  generalize endRecovery { x with store := { x.store with op := none } } = y at *
  have picks := chooseNext_picks (s := y) fun r hr => by
    rw [appendBody_congr table]
    rw [queue] at hr
    exact writable r hr
  have still : (chooseNext y).path = y.path := by
    generalize chooseNext y = z at picks
    cases picks with
    | calm => rfl
    | waits => rw [raise_path]; rfl
  rw [settle_store] at same
  rw [settle_unheld fun k => by rw [show feeder (chooseNext y) k = feeder x k by
    unfold feeder; rw [still, path]]; exact empty k]
  generalize chooseNext y = z at picks same
  cases picks with
  | calm => exact report
  | waits st picked off on =>
    rw [raise_store] at same
    exact absurd (off.symm.trans (wait.trans (same.symm.trans on))) (by decide)

/-- Freed with a compaction in progress: its next step starts where the store may start one. -/
theorem freed_compacts {x : State} {c : Compaction} (running : x.store.compaction = some c) :
    (freed x).store.compaction = some c ∧ (freed x).store.sectors = x.store.sectors ∧
    (freed x).store.queue = x.store.queue ∧
    (x.store.scanMade = true → x.store.quiesced = false → (∀ f, x.store.phase ≠ .failed f) →
      (freed x).store.lastSeq = x.store.lastSeq + 1 ∧
      (freed x).store.op = some (compactionStep { (freed x).store with lastSeq := x.store.lastSeq } c)) ∧
    (x.store.scanMade = false ∨ x.store.quiesced = true →
      (freed x).store.op = none ∧ (freed x).store.lastSeq = x.store.lastSeq) := by
  have ended : ∃ p, (endRecovery { x with store := { x.store with op := none } }).store =
      { x.store with op := none, phase := p } ∧ ∀ f, p = .failed f → x.store.phase = .failed f := by
    unfold endRecovery
    split
    · exact ⟨.inService, rfl, fun f h => by cases h⟩
    · exact ⟨x.store.phase, rfl, fun f h => h⟩
  obtain ⟨p, store, phase⟩ := ended
  rw [freed, settle_store]
  generalize endRecovery { x with store := { x.store with op := none } } = y at store
  have may : mayStart y.store = true ↔ x.store.quiesced = false ∧ (∀ f, p ≠ .failed f) ∧ x.store.scanMade = true := by
    rw [mayStart_iff, store]
    simp
  by_cases starts : mayStart y.store = true
  · have step := choose_compacts (told := closeIfDone) starts (compactionStart_some (c := c) (by rw [store]; exact running))
    rw [startStep_eq] at step
    rw [chooseNext, step, State.setStore_store, store]
    refine ⟨rfl, rfl, rfl, fun _ _ _ => ⟨rfl, rfl⟩, fun stopped => ?_⟩
    obtain ⟨awake, -, made⟩ := may.1 starts
    rcases stopped with h | h
    · rw [made] at h; cases h
    · rw [awake] at h; cases h
  · rw [chooseNext_of_not_mayStart (Bool.eq_false_iff.2 starts), store]
    refine ⟨running, rfl, rfl, fun made awake works => absurd (may.2 ⟨awake, fun f h => works f (phase f h), made⟩) starts,
      fun _ => ⟨rfl, rfl⟩⟩

/-! ## What the verify of a step brings about -/

theorem stepVerified_copy {body : EntryBody} (copy : ∀ g, body ≠ .header g) (c : Compaction) (v : Bool) (st : Store) :
    stepVerified c body v st =
      if v then copyDone c st
      else if c.retried then abandon c st
      else { st with compaction := some { c with retried := true } } := by
  cases body with
  | header g => exact absurd rfl (copy g)
  | reserve | close | retire | copy => rfl

theorem headerDone_eq (c : Compaction) (st : Store) : headerDone c st = { st with
    sectors := (match st.active with | some a => st.sectors.set a .full | none => st.sectors).set c.target .active
    compaction := none
    fullWait := false } := by
  unfold headerDone
  cases st.active <;> rfl

/-- The second failure of a copy, or the failure of a header, abandons the compaction. -/
theorem stepVerified_abandons {body : EntryBody} {c : Compaction} (h : (∃ g, body = .header g) ∨ c.retried = true)
    (st : Store) : stepVerified c body false st = abandon c st := by
  by_cases header : ∃ g, body = .header g
  · obtain ⟨g, rfl⟩ := header
    rfl
  · rw [stepVerified_copy fun g hg => header ⟨g, hg⟩, if_neg (by decide), if_pos (h.resolve_left header)]

theorem stepVerified_progress {body : EntryBody} {c c' : Compaction} {v : Bool} (copy : ∀ g, body ≠ .header g)
    (h : (v = true ∧ c' = { c with todo := c.todo.drop 1, retried := false }) ∨
      (v = false ∧ c.retried = false ∧ c' = { c with retried := true })) (st : Store) :
    stepVerified c body v st = { st with compaction := some c' } := by
  rw [stepVerified_copy copy]
  rcases h with ⟨rfl, rfl⟩ | ⟨rfl, fresh, rfl⟩
  · rfl
  · rw [if_neg (by decide), if_neg (by rw [fresh]; decide)]

/-- Whatever the step, its verify leaves the array, the table, the queue and the store's state. -/
theorem stepVerified_rest (c : Compaction) (body : EntryBody) (v : Bool) (st : Store) :
    ∃ sectors compaction wait, stepVerified c body v st = { st with sectors, compaction, fullWait := wait } := by
  by_cases header : ∃ g, body = .header g
  · obtain ⟨g, rfl⟩ := header
    cases v with
    | true => exact ⟨_, _, _, headerDone_eq c st⟩
    | false => exact ⟨_, _, _, rfl⟩
  · rw [stepVerified_copy fun g hg => header ⟨g, hg⟩]
    split
    · exact ⟨_, _, _, rfl⟩
    · split <;> exact ⟨_, _, _, rfl⟩

theorem writeSlot_begin (i : SectorId) (n : Nat) (x : Slot) (s : State) :
    writeSlot i n x (begin s) = written i n x s := rfl

/-- The entry stands in its slot, every other slot as it was. -/
theorem written_slots (i : SectorId) (n : Nat) (x : Slot) (s : State) {a : Four Sector}
    (h : a = (written i n x s).store.array) : Sector.slot (a.get i) n = some x ∧
    (∀ m, m ≠ n → Sector.slot (a.get i) m = Sector.slot (s.store.array.get i) m) ∧
    ∀ j, j ≠ i → a.get j = s.store.array.get j := by
  have own : (written i n x s).store.array.get i = Sector.program n x (s.store.array.get i) := Four.get_set_same ..
  rw [h, own]
  exact ⟨Sector.slot_program_same .., fun m other => Sector.slot_program_other _ _ other,
    fun j other => Four.get_set_other _ _ (Ne.symm other)⟩

/-- Settles O56, by the step's entry and its verify. -/
theorem compactionStepCompletes : Obligations.CompactionStepCompletes := by
  intro s i n seq body c v op running
  refine ⟨_, exec_stepCompletion v op running, ?_⟩
  rw [writeSlot_begin]
  generalize hw : written i n { seq, body, sound := v } s = w
  have store : w.store = { s.store with
      array := s.store.array.set i (Sector.program n { seq, body, sound := v } (s.store.array.get i)) } := by rw [← hw]; rfl
  have active : w.store.active = s.store.active := by rw [store]; rfl
  generalize hx : w.setStore (stepVerified c body v w.store) = x
  have xstore : x.store = stepVerified c body v w.store := by rw [← hx]; rfl
  obtain ⟨sectors, compaction, wait, rest⟩ := stepVerified_rest c body v w.store
  have left := finishOperation_left seq x
  have full_left : ∀ a, x.store.sectors.get a = .full → (finishOperation seq x).store.sectors.get a = .full ∨
      (finishOperation seq x).store.sectors.get a = .erasing := fun a full => by
    rcases left.sectors a with same | ⟨-, erasing⟩
    · exact .inl (same.trans full)
    · exact .inr erasing
  have active_left : ∀ a, x.store.sectors.get a = .active → (finishOperation seq x).store.sectors.get a = .active :=
    fun a here => by
      rcases left.sectors a with same | ⟨full, -⟩
      · exact same.trans here
      · rw [here] at full
        cases full
  have array : x.store.array = w.store.array := by rw [xstore, rest]
  have table : x.store.table = s.store.table := by rw [xstore, rest, store]
  obtain ⟨entry, others, kept⟩ := written_slots i n { seq, body, sound := v } s
    (a := (finishOperation seq x).store.array) (by rw [left.array, array, hw])
  refine ⟨?_, entry, others, kept, fun more => ?_, ?_, fun c' copy h => ?_, fun h failed => ?_, fun h c' new => ?_,
    fun more w' st hw' header copy again abandoned => ?_⟩
  · rintro rfl
    obtain ⟨worn, flag⟩ := finishOperation_worn x
    exact ⟨by rw [worn], by rw [worn], by rw [worn], flag⟩
  · rw [finishOperation_freed more, (freed_chosen x).table]
    exact table
  · rintro g rfl rfl
    have done : x.store = headerDone c w.store := xstore
    rw [headerDone_eq, active] at done
    refine ⟨active_left _ (by rw [done]; exact Four.get_set_same ..), fun a old other => full_left a ?_⟩
    rw [done, old]
    dsimp only
    rw [Four.get_set_other _ _ (Ne.symm other), Four.get_set_same]
  · rw [stepVerified_progress copy h] at xstore
    by_cases last : seq = 0xFFFFFFFE
    · subst last
      have worn := (finishOperation_worn x).1
      refine ⟨by rw [worn, xstore], by rw [worn, xstore, store], fun more => absurd rfl more⟩
    · rw [finishOperation_freed last]
      obtain ⟨compaction, sectors, queue, step, none⟩ := freed_compacts (x := x) (c := c') (by rw [xstore])
      generalize (freed x).store = u at *
      rw [xstore, store] at sectors queue step none
      exact ⟨compaction, sectors, fun _ => ⟨queue, step, none⟩⟩
  · subst failed
    rw [stepVerified_abandons h] at xstore
    refine ⟨full_left _ ?_, fun a old other => active_left _ ?_, fun more writable same empty => ?_⟩
    · rw [xstore]
      exact Four.get_set_same ..
    · rw [xstore]
      refine (Four.get_set_other _ _ (Ne.symm other)).trans ?_
      rw [store]
      exact lowest_state old
    · rw [finishOperation_freed more] at same ⊢
      refine (freed_report (x := x) (fun r hr => ?_) (fun k => ?_) (same.trans ?_)).trans ?_
      · rw [appendBody_congr table]
        exact writable r (by rw [xstore, store] at hr; exact hr)
      · rw [← hx, ← hw]
        exact empty k
      · rw [xstore, store]
        rfl
      · rw [← hx, ← hw]
        rfl
  · have none : x.store.compaction = none ∧ x.store.sectors.get c.target ≠ .erased := by
      have dropped : ∀ st : Store, (abandon c st).compaction = none ∧ (abandon c st).sectors.get c.target ≠ .erased :=
        fun st => ⟨rfl, by rw [show (abandon c st).sectors.get c.target = .full from Four.get_set_same ..]; decide⟩
      cases v with
      | true =>
        obtain ⟨g, rfl⟩ := h.resolve_right fun k => by cases k.2
        have done : x.store = headerDone c w.store := xstore
        rw [headerDone_eq] at done
        rw [done]
        exact ⟨rfl, by rw [Four.get_set_same]; decide⟩
      | false =>
        rw [xstore, stepVerified_abandons (h.imp_right And.left)]
        exact dropped _
    rcases left.compaction with same | ⟨j, erased, started⟩
    · rw [same, none.1] at new
      cases new
    · rw [started, Option.some_inj] at new
      subst new
      exact ⟨fun same => none.2 (same ▸ erased), table, rfl⟩
  · rw [finishOperation_freed more]
    have result : st = stepVerified c body v w.store := by
      subst hw'
      by_cases hd : ∃ g, body = .header g
      · cases v with
        | true =>
          rw [header hd rfl]
          obtain ⟨g, rfl⟩ := hd
          exact (headerDone_eq c w.store).symm
        | false => rw [abandoned (.inl hd) rfl, stepVerified_abandons (.inl hd)]; rfl
      · have plain : ∀ g, body ≠ .header g := fun g hg => hd ⟨g, hg⟩
        cases v with
        | true => rw [copy plain rfl, stepVerified_progress plain (.inl ⟨rfl, rfl⟩)]
        | false =>
          cases retried : c.retried with
          | false => rw [again plain rfl retried, stepVerified_progress plain (.inr ⟨rfl, retried, rfl⟩)]
          | true => rw [abandoned (.inr retried) rfl, stepVerified_abandons (.inr retried)]; rfl
    rw [result, ← hx, ← hw]
    rfl

end Sys2Proof.Machine
end

section
/-! PROOFS. Appends completed: what their notices reach (R17, R18, R135, R145, R148, R189 to R191). -/

namespace Sys2Proof.Machine
open Sys2Proof.Safety

/-! ## CLOSING is entered and left by commands and the end of CLOSE alone -/

/-- Both states are in CLOSING, or neither is. -/
def ClosingSame (s t : State) : Prop := t.ctl.job = .closing ↔ s.ctl.job = .closing

theorem ClosingSame.refl (s : State) : ClosingSame s s := Iff.rfl

theorem ClosingSame.after {s t u : State} (k : ClosingSame t u) (h : ClosingSame s t) : ClosingSame s u := Iff.trans k h

theorem ClosingSame.of_ctl {s t : State} (h : t.ctl = s.ctl) : ClosingSame s t := by
  unfold ClosingSame
  rw [h]

/-- A job state that replaces one of RUN, HOLD, READY and DRAIN by another than CLOSING. -/
theorem ClosingSame.of_jobs {s t : State} (before : s.ctl.job ≠ .closing) (after : t.ctl.job ≠ .closing) : ClosingSame s t :=
  ⟨fun h => absurd h after, fun h => absurd h before⟩

theorem closingSame_acted (act : FaultAction) (kind : FaultKind) (ply : BitVec 3) (serial : Word) (s : State) :
    ClosingSame s (acted act kind ply serial s) := by
  cases act with
  | carryOn => exact Iff.rfl
  | hold =>
    dsimp only [acted]
    split
    next run => exact .of_jobs (fun h => by cases h.symm.trans run) (fun h => by cases h)
    next => exact Iff.rfl
  | halt =>
    dsimp only [acted]
    split
    next on =>
      refine .of_jobs (fun h => ?_) (fun h => by cases h)
      rcases on with on | on | on <;> cases h.symm.trans on
    next => exact Iff.rfl

theorem closingSame_raise (kind : FaultKind) (ply : BitVec 3) (serial : Word) (s : State) :
    ClosingSame s (raise kind ply serial s) := by
  cases op : s.ctl.inOperation with
  | true => rw [raise_inside op]; exact Iff.rfl
  | false =>
    rw [raise_outside op]
    exact closingSame_acted _ kind ply serial { s with report := recorded kind ply serial s }

theorem closingSame_blank (s : State) : ClosingSame s (blankPending s) := .of_ctl (by rw [blankPending_eq])

theorem closingSame_exhausted (s : State) : ClosingSame s (claim .exhausted s) := by
  unfold claim applyClaim
  split
  · exact Iff.rfl
  · dsimp only
    split
    next run => exact .of_jobs (fun h => by cases h.symm.trans run) (fun h => by rw [enterDrain_eq] at h; cases h)
    next => exact Iff.rfl

theorem closingSame_applyPathMark (k : Ply) (m : PathMark) (s : State) : ClosingSame s (applyPathMark k m s) := by
  unfold applyPathMark
  split
  · unfold completeField
    split <;> exact Iff.rfl
  · exact closingSame_raise ..
  · split
    · exact closingSame_raise ..
    · exact Iff.rfl

theorem closingSame_takeHead (k : Ply) (s : State) : ClosingSame s (takeHead k s) := by
  have marks : ∀ (ms : List PathMark) (x : State), ClosingSame x (ms.foldl (fun s m => applyPathMark k m s) x) := by
    intro ms
    induction ms with
    | nil => exact fun x => .refl x
    | cons m ms ih => exact fun x => (ih _).after (closingSame_applyPathMark k m x)
  unfold takeHead
  dsimp only
  split
  · exact .refl s
  · unfold takeResponse
    split
    · exact Iff.rfl
    · exact (marks _ _).after Iff.rfl

theorem closingSame_settle (s : State) : ClosingSame s (settle s) := by
  refine settle_induction (P := ClosingSame s) (fun t k c _ before => ClosingSame.after ?_ before) (.refl s)
  refine ClosingSame.after (t := t.setFree c) ?_ Iff.rfl
  unfold serveHead
  split
  · exact .refl _
  · split
    · unfold holdHead bindExpire
      dsimp only
      split
      · exact (closingSame_raise ..).after ((closingSame_blank _).after Iff.rfl)
      · exact Iff.rfl
    · exact closingSame_takeHead k _

theorem closingSame_endRecovery (s : State) : ClosingSame s (endRecovery s) := by
  unfold endRecovery
  split <;> exact Iff.rfl

theorem Stocked.closingSame {s u : State} (h : Stocked s u) : ClosingSame s u := by
  cases h with
  | calm => exact Iff.rfl
  | waits => exact closingSame_raise .storeFault 0 0 s

/-! ## A choice that tells nobody -/

/-- CLOSE is in progress and a notice may end it. -/
abbrev MayClose (s : State) : Prop := s.ctl.job = .closing ∧ s.ticket.waiting ≠ none

theorem closeIfDone_untold {s : State} (h : ¬MayClose s) : closeIfDone s = s := by
  unfold closeIfDone
  split
  next p waiting => exact if_neg fun k => h ⟨k.2.1, by rw [waiting]; simp⟩
  next => rfl

theorem chooseFrom_untold (n : Nat) {s : State} (h : ¬MayClose s) : chooseFrom closeIfDone n s = chooseFrom id n s := by
  induction n generalizing s with
  | zero => rfl
  | succ n ih =>
    have again : chooseFrom closeIfDone n (closeIfDone (dropHead s)) = chooseFrom id n (id (dropHead s)) := by
      rw [closeIfDone_untold (s := dropHead s) h]
      exact ih (s := dropHead s) h
    unfold chooseFrom
    split
    · split
      · rfl
      · unfold chooseAppend
        split
        · rfl
        · split
          · exact again
          · rfl
    · rfl

theorem closeEnd_job (s : State) : (closeEnd s).ctl.job ≠ .closing := by
  have idle : (jobDropped (closeReplied s)).ctl.job ≠ .closing := fun h => by cases h
  have same : ClosingSame (jobDropped (closeReplied s)) (closeEnd s) := by
    rw [closeEnd_eq, setSettings_eq]
    generalize jobDropped (closeReplied s) = x at *
    have taken : ClosingSame x (settingsTaken none x) := by
      unfold settingsTaken
      split
      · unfold holdreqTo
        dsimp only
        split
        · unfold holdTest
          split
          next h => exact .of_jobs (fun k => by cases k.symm.trans h.1) (fun k => by rw [enterHold_eq] at k; cases k)
          next => exact Iff.rfl
        · exact Iff.rfl
      · exact Iff.rfl
    generalize settingsTaken none x = y at *
    split
    · split
      · by_cases works : ∀ c, y.store.phase ≠ .failed c
        · rw [powerActive_works works]
          exact ClosingSame.after (t := y) (closingSame_raise .powerWarn 0 0 { y with lines := _ }) taken
        · obtain ⟨c, failed⟩ := not_forall_not.1 works
          rw [powerActive_failed failed]
          exact ClosingSame.after (t := y) (closingSame_raise .powerWarn 0 0 { y with lines := _ }) taken
      · obtain ⟨st, h⟩ := powerInactive_eq y
        rw [h]
        exact taken
    · exact taken
  exact fun h => idle (same.1 h)

/-- A choice that leaves CLOSING in force has told nobody. -/
theorem chooseFrom_closing (n : Nat) {s : State} (h : (chooseFrom closeIfDone n s).ctl.job = .closing) :
    chooseFrom closeIfDone n s = chooseFrom id n s := by
  induction n generalizing s with
  | zero => rfl
  | succ n ih =>
    have again : (chooseFrom closeIfDone n (closeIfDone (dropHead s))).ctl.job = .closing →
        chooseFrom closeIfDone n (closeIfDone (dropHead s)) = chooseFrom id n (dropHead s) := fun h => by
      by_cases kept : closeIfDone (dropHead s) = dropHead s
      · rw [kept] at h ⊢
        exact ih h
      · have over_now : (closeIfDone (dropHead s)).ctl.job ≠ .closing := by
          unfold closeIfDone at kept ⊢
          split
          next p waiting =>
            rw [waiting] at kept
            split
            next => exact closeEnd_job _
            next on => exact absurd (if_neg on) kept
          next waiting =>
            rw [waiting] at kept
            exact absurd rfl kept
        have silent := chooseFrom_untold n fun may => over_now may.1
        rw [silent] at h
        exact absurd ((stocked_chooseFrom n _).closingSame.1 h) over_now
    rw [chooseFrom] at h ⊢
    rw [chooseFrom]
    split at h
    next may =>
      rw [if_pos may, if_pos may]
      cases start : compactionStart s.store with
      | some st => rfl
      | none =>
        rw [start] at h
        dsimp only at h ⊢
        unfold chooseAppend at h ⊢
        cases head : s.store.queue.head? with
        | none => rfl
        | some r =>
          rw [head] at h
          dsimp only at h ⊢
          cases body : appendBody s.store r with
          | some => rfl
          | none =>
            rw [body] at h
            exact again h
    next stopped => rw [if_neg stopped, if_neg stopped]

/-- A choice that has no CLOSE to tell, or leaves CLOSING in force, is a silent one. -/
theorem chooseNext_silent {s : State} (h : ¬MayClose s ∨ (chooseNext s).ctl.job = .closing) :
    Stocked s (chooseNext s) ∧ (chooseNext s).streams = s.streams := by
  have same : chooseNext s = chooseFrom id (s.store.queue.length + 1) s := by
    rcases h with untold | closing
    · exact chooseFrom_untold _ untold
    · exact chooseFrom_closing _ closing
  rw [same]
  exact ⟨stocked_chooseFrom .., chooseFrom_id_streams ..⟩

end Sys2Proof.Machine
end

section
/-! PROOFS. Appends completed (R17, R18, R130, R135, R145, R148, R189 to R191). -/

namespace Sys2Proof.Machine
open Sys2Proof.Safety

/-! ## What a reservation's notice leaves -/

/-- What draws and requests leave: the table, every limit, and CLOSING or not. -/
structure Draws (s t : State) : Prop where
  table : t.store.table = s.store.table
  limit : ∀ j, (streamAt t j).limit = (streamAt s j).limit
  closing : ClosingSame s t

theorem Draws.refl (s : State) : Draws s s := ⟨rfl, fun _ => rfl, .refl s⟩

theorem Draws.after {s t u : State} (k : Draws t u) (h : Draws s t) : Draws s u :=
  ⟨k.table.trans h.table, fun j => (k.limit j).trans (h.limit j), k.closing.after h.closing⟩

theorem Draws.of_stock {s t : State} (table : t.store.table = s.store.table) (streams : t.streams = s.streams)
    (closing : ClosingSame s t) : Draws s t := ⟨table, fun j => by rw [streamAt, streams]; rfl, closing⟩

theorem draws_setStream {i : StreamId} {x : StreamState} {s : State} (h : x.limit = (streamAt s i).limit) :
    Draws s (setStream i x s) := by
  refine ⟨rfl, fun j => ?_, Iff.rfl⟩
  by_cases same : j = i
  · rw [same, streamAt_setStream_same, h]
  · rw [streamAt_setStream_other same]

theorem draws_request (i : StreamId) (d : StreamDesc) (l : Word) (s : State) : Draws s (request i d l s) := by
  cases refusal : refuses s.store with
  | true =>
    rw [request_refused i d l refusal]
    exact draws_setStream rfl
  | false =>
    rw [request_accepted i d l refusal]
    refine Draws.after ?_ (draws_setStream (i := i) (x := askedStream (some l) true (streamAt s i)) rfl)
    exact .of_stock (joinQueue_chosen _ _).table (joinQueue_streams ..) (stocked_joinQueue ..).closingSame

theorem draws_askBy (t : Ticket) (rule : StreamId → StreamState → Option Word) (s : State) (i : StreamId) :
    Draws s (askBy t rule s i) := by
  unfold askBy
  split
  · exact draws_request ..
  · exact .refl s

theorem draws_asksBy (t : Ticket) (rule : StreamId → StreamState → Option Word) (is : List StreamId) (s : State) :
    Draws s (is.foldl (askBy t rule) s) := by
  induction is generalizing s with
  | nil => exact .refl s
  | cons i is ih => exact (ih _).after (draws_askBy t rule s i)

theorem draws_drawRequests (t : Ticket) (a : DrawAnswer) (s : State) : Draws s (drawRequests t a s) := by
  cases a with
  | drawn =>
    change Draws s (drawnRequests t s)
    rw [drawnRequests_eq]
    exact draws_asksBy ..
  | uncovered =>
    change Draws s (uncoveredRequests t s)
    rw [uncoveredRequests_eq]
    exact draws_asksBy ..
  | waiting | exhausted => exact .refl s

theorem recordDraw_limit (v : Word) (x : StreamState) : (recordDraw v x).limit = x.limit := by
  unfold recordDraw
  split
  · rfl
  · split <;> rfl

theorem drawAll_limit (t : Ticket) (u : StreamUnit) (j : StreamId) :
    ((drawAll t u).2.each.get j).limit = (u.each.get j).limit := by
  unfold drawAll
  by_cases mem : j ∈ t.activeStreams
  · obtain ⟨g, -, each⟩ := drawInto_member t (activeStreams_nodup t) (Four.const none, u) mem
    obtain ⟨-, st, v, n, record⟩ := drawStream_records t.policy (t.streams.get j) (u.each.get j) g
    rw [each, record]
    exact recordDraw_limit ..
  · rw [(drawInto_other t t.activeStreams (Four.const none, u) mem).2]

theorem draws_drawForSet (t : Ticket) (s : State) : Draws s (drawForSet t s).2.2 := by
  unfold drawForSet
  split
  · exact .refl s
  · split
    · exact ⟨rfl, fun j => drawAll_limit t s.streams j, Iff.rfl⟩
    · exact .refl s
    · exact .refl s
    · exact .refl s

theorem draws_blank (s : State) : Draws s (blankPending s) := by
  rw [blankPending_eq]
  exact ⟨rfl, fun _ => rfl, Iff.rfl⟩

theorem draws_raise (kind : FaultKind) (ply : BitVec 3) (serial : Word) (s : State) : Draws s (raise kind ply serial s) :=
  .of_stock (by rw [raise_store]) (raise_streams ..) (closingSame_raise ..)

theorem draws_exhausted (s : State) : Draws s (claim .exhausted s) := by
  obtain ⟨p, j, eq⟩ := claim_changes (c := .exhausted) (by simp) s
  exact .of_stock (by rw [eq]; rfl) (by rw [eq]; rfl) (closingSame_exhausted s)

theorem draws_resolvePending (s : State) : Draws s (resolvePending s) := by
  unfold resolvePending
  split
  next t stamp cs ps _ _ =>
    have draw := draws_drawForSet t s
    split
    · dsimp only
      split
      · exact (draws_drawRequests ..).after (Draws.after (t := (drawForSet t s).2.2) ⟨rfl, fun _ => rfl, Iff.rfl⟩ draw)
      · exact draw
      · exact (draws_raise ..).after ((draws_drawRequests ..).after ((draws_blank _).after draw))
      · exact (draws_exhausted _).after ((draws_blank _).after draw)
    · exact .refl s
  · exact .refl s

/-! ## The renewal asked for with the limit that has come (R16, R17) -/

theorem setStream_eq (i : StreamId) (x : StreamState) (s : State) :
    setStream i x s = { s with streams := { s.streams with each := s.streams.each.set i x } } := rfl

section
variable {t : Ticket} {s : State} (active : s.ticket.active = some t) (i : StreamId)
include active

theorem renewed_asks {l : Word} (open_job : s.ctl.job ≠ .closing) (asks : renewalAsked t s i = some l) :
    renewed i s = { s with
      streams := { s.streams with each := s.streams.each.set i (askedStream (some l) (!refuses s.store) (streamAt s i)) }
      store := { s.store with queue := s.store.queue ++
        if (!refuses s.store) = true then [.reservation i (t.streams.get i).book (t.streams.get i).dir l] else [] } } := by
  have filled : ∀ accepted, accepted = !refuses s.store → ({ s with
      streams := { s.streams with each := s.streams.each.set i (askedStream (some l) accepted (streamAt s i)) }
      store := { s.store with queue := s.store.queue ++
        if accepted then [.reservation i (t.streams.get i).book (t.streams.get i).dir l] else [] } } : State) = { s with
      streams := { s.streams with each := s.streams.each.set i (askedStream (some l) (!refuses s.store) (streamAt s i)) }
      store := { s.store with queue := s.store.queue ++
        if (!refuses s.store) = true then [.reservation i (t.streams.get i).book (t.streams.get i).dir l] else [] } } := by
    rintro accepted rfl
    rfl
  unfold renewed
  rw [active]
  dsimp only
  rw [if_neg open_job, asks]
  refine filled _ ?_
  unfold refuses
  by_cases room : s.store.queue.length < 40
  · cases s.store.phase <;> simp [Config.requestCapacity, room, Nat.not_le.2 room]
  · cases s.store.phase <;> simp [Config.requestCapacity, room, Nat.not_lt.1 room]

theorem renewed_quiet (asks : renewalAsked t s i = none) : renewed i s = s := by
  unfold renewed
  rw [active]
  dsimp only
  rw [asks, ite_self]

/-- While an operation is in flight the renewal's request only joins the queue. -/
theorem renewed_eq (busy : s.store.op ≠ none) :
    (if s.ctl.job = .closing then s else testRenewal t i s) = renewed i s := by
  by_cases closing : s.ctl.job = .closing
  · unfold renewed
    rw [active]
    dsimp only
    rw [if_pos closing, if_pos closing]
  · rw [if_neg closing, testRenewal_eq]
    cases asks : renewalAsked t s i with
    | none => rw [renewed_quiet active i asks, askBy_none t _ asks]
    | some l =>
      rw [renewed_asks active i closing asks, askBy_some t _ asks]
      cases refusal : refuses s.store with
      | true =>
        rw [request_refused i _ l refusal, setStream_eq, Bool.not_true, if_neg Bool.false_ne_true, List.append_nil]
      | false =>
        rw [request_accepted i _ l refusal, joinQueue_blocked (s := setStream i _ s) (.inl busy)]
        rfl

theorem renewed_stream (open_job : s.ctl.job ≠ .closing) (works : ∀ c, s.store.phase ≠ .failed c) :
    streamAt (renewed i s) i =
      askedStream (renewalAsked t s i) (decide (s.store.queue.length < 40)) (streamAt s i) := by
  cases asks : renewalAsked t s i with
  | none =>
    rw [renewed_quiet active i asks]
    rfl
  | some l =>
    have accepted : (!refuses s.store) = decide (s.store.queue.length < 40) := by
      rw [refuses_works works, ← decide_not, decide_eq_decide]
      omega
    rw [renewed_asks active i open_job asks, ← accepted]
    exact Four.get_set_same ..

end

theorem renewed_none {s : State} (h : s.ticket.active = none ∨ s.ctl.job = .closing) (i : StreamId) : renewed i s = s := by
  unfold renewed
  cases active : s.ticket.active with
  | none => rfl
  | some t =>
    rcases h with h | closing
    · rw [active] at h
      cases h
    · dsimp only
      rw [if_pos closing]

theorem renewed_rest (i : StreamId) (s : State) : (renewed i s).ticket = s.ticket ∧ (renewed i s).ctl = s.ctl ∧
    (renewed i s).pipe = s.pipe := by
  unfold renewed
  split
  · exact ⟨rfl, rfl, rfl⟩
  · split <;> exact ⟨rfl, rfl, rfl⟩

/-- The completion notice of a reservation, while its append's operation is still in flight (R17, R39). -/
theorem streamCompleted_eq (i : StreamId) {s : State} (busy : s.store.op ≠ none) :
    streamCompleted i s = resolvePending (renewed i (limited i (some (streamAt s i).requested) s)) := by
  change (match (limited i (some (streamAt s i).requested) s).ticket.active with
    | some t => resolvePending (if (limited i (some (streamAt s i).requested) s).ctl.job = JobState.closing
        then limited i (some (streamAt s i).requested) s else testRenewal t i (limited i (some (streamAt s i).requested) s))
    | none => limited i (some (streamAt s i).requested) s) = _
  have busy : (limited i (some (streamAt s i).requested) s).store.op ≠ none := busy
  generalize limited i (some (streamAt s i).requested) s = x at *
  cases active : x.ticket.active with
  | none =>
    dsimp only
    rw [renewed_none (.inl active), resolvePending_none (.inl active)]
  | some t =>
    dsimp only
    rw [renewed_eq active i busy]

theorem draws_streamCompleted (i : StreamId) {s : State} (busy : s.store.op ≠ none) :
    Draws (limited i (some (streamAt s i).requested) s) (streamCompleted i s) := by
  rw [streamCompleted_eq i busy]
  refine (draws_resolvePending _).after ?_
  have busy : (limited i (some (streamAt s i).requested) s).store.op ≠ none := busy
  generalize limited i (some (streamAt s i).requested) s = x at *
  cases active : x.ticket.active with
  | none => rw [renewed_none (.inl active)]; exact .refl x
  | some t =>
    rw [← renewed_eq active i busy]
    split
    · exact .refl x
    · rw [testRenewal_eq]
      exact draws_askBy ..

/-! ## Freed: what stays where CLOSE has not ended -/

section
variable {y : State} (h : ¬MayClose y ∨ (freed y).ctl.job = .closing)
include h

theorem freed_silent : (freed y).streams = y.streams ∧ (freed y).ticket = y.ticket := by
  have ended : ∀ z : State, (endRecovery z).streams = z.streams ∧ (endRecovery z).ticket = z.ticket ∧
      (endRecovery z).ctl = z.ctl := fun z => by
    unfold endRecovery
    split <;> exact ⟨rfl, rfl, rfl⟩
  obtain ⟨streams, ticket, ctl⟩ := ended { y with store := { y.store with op := none } }
  have silent := chooseNext_silent (s := endRecovery { y with store := { y.store with op := none } }) (by
    rcases h with untold | closing
    · left
      rintro ⟨job, waiting⟩
      rw [ctl] at job
      rw [ticket] at waiting
      exact untold ⟨job, waiting⟩
    · exact .inr ((closingSame_settle _).1 closing))
  rw [freed, settle_streams, settle_ticket]
  generalize endRecovery { y with store := { y.store with op := none } } = z at *
  obtain ⟨stocked, same⟩ := silent
  refine ⟨same.trans streams, ?_⟩
  rw [stocked.frame.rest]
  exact ticket

end

theorem keepsFlags_freed (y : State) : KeepsFlags y (freed y) := by
  refine KeepsFlags.trans (t := endRecovery { y with store := { y.store with op := none } }) ?_ ?_
  · exact .of_eq (endRecovery_report _)
  · exact (keepsFlags_chooseNext _).trans (keepsFlags_settle _)

/-- With writable requests alone the queue stays, and what is tried again is tried again. -/
theorem freed_queue {y : State} (writable : AllWritable y.store) :
    (freed y).store.queue = y.store.queue ∧ (freed y).store.retried = y.store.retried := by
  have ended : ∀ z : State, ∃ p, (endRecovery z).store = { z.store with phase := p } := fun z => by
    unfold endRecovery
    split
    · exact ⟨_, rfl⟩
    · exact ⟨_, rfl⟩
  obtain ⟨p, store⟩ := ended { y with store := { y.store with op := none } }
  rw [freed, settle_store]
  generalize endRecovery { y with store := { y.store with op := none } } = z at *
  have picked := (chooseNext_picks (s := z) fun r hr => by
    rw [store] at hr ⊢
    exact (congrArg Option.isSome (appendBody_congr rfl r)).trans (writable r hr)).store
  rw [picked.rest, store]
  exact ⟨rfl, rfl⟩

end Sys2Proof.Machine
end

section
/-! PROOFS. Appends completed, by the request at the head of the queue (R135). -/

namespace Sys2Proof.Machine
open Sys2Proof.Safety

/-! ## The verify, by its result -/

section
variable {w : State} {body : EntryBody} {r : Request} {rest : List Request}

theorem popRequest_eq (s : State) : popRequest s = answered s.store.table s := by
  unfold popRequest answered
  rw [List.drop_one]
  rfl

theorem appendVerified_done (queue : w.store.queue = r :: rest) :
    appendVerified body true w = completionNotice r (answered (tableAfter body w.store.table) w) := by
  rw [appendVerified, if_pos rfl, appendDone, popRequest_eq, queue]
  rfl

theorem appendVerified_done_empty (queue : w.store.queue = []) :
    appendVerified body true w = answered (tableAfter body w.store.table) w := by
  rw [appendVerified, if_pos rfl, appendDone, popRequest_eq, queue]
  rfl

theorem appendVerified_failed (queue : w.store.queue = r :: rest) (again : w.store.retried = true) :
    appendVerified body false w = raise .storeFault 0 0 (failureNotice r (answered w.store.table w)) := by
  rw [appendVerified, if_neg Bool.false_ne_true, if_pos again, appendFailed, popRequest_eq, queue]
  rfl

theorem appendVerified_retries (first : w.store.retried = false) :
    appendVerified body false w = w.setStore { w.store with retried := true } := by
  rw [appendVerified, if_neg Bool.false_ne_true, if_neg (by rw [first]; decide)]

end

theorem completionNotice_table (r : Request) {s : State} (busy : s.store.op ≠ none) :
    (completionNotice r s).store.table = s.store.table := by
  cases r with
  | reservation i book dir l => exact (draws_streamCompleted i busy).table
  | closeAppend i book dir d =>
    change (closeIfDone s).store.table = s.store.table
    rw [(closeIfDone_warned s).rest]
  | recoveryClose book => rfl
  | retire book => exact congrArg Store.table (endPending_store ..)

theorem appendVerified_table {body : EntryBody} {w : State} (busy : w.store.op ≠ none) :
    (appendVerified body true w).store.table = tableAfter body w.store.table := by
  cases queue : w.store.queue with
  | nil =>
    rw [appendVerified_done_empty queue]
    rfl
  | cons r rest =>
    rw [appendVerified_done queue, completionNotice_table r (s := answered _ w) busy]
    rfl

theorem appendVerified_fault {body : EntryBody} {w : State} (again : w.store.retried = true) :
    (appendVerified body false w).report.flags.getLsbD 16 = true := by
  rw [appendVerified, if_neg Bool.false_ne_true, if_pos again]
  exact raise_sets .storeFault ..

/-! ## A command's end (R165) -/

theorem endPending_eq {s : State} {p : PendingCommand} (waiting : s.ticket.waiting = some p) (r : ResultCode)
    (d : Word) : endPending r d s = { s with ticket := { s.ticket with
      result := { code := p.kind.code, tag := p.tag, result := r, check := 0, detail := d, echo1 := p.echo1,
                  echo2 := p.echo2 }
      waiting := none } } := by
  unfold endPending
  rw [waiting]
  rfl

/-! ## The end of CLOSE at its last close append (R191) -/

theorem Closed.stock {c u : State} (closed : Closed c u) (st : Store) (rep : Report) :
    Closed c { u with store := st, report := rep } := by
  unfold Closed at closed ⊢
  have levels : ∀ n, inputActive { u with store := st, report := rep } n = inputActive u n := fun n => rfl
  rw [levels, levels]
  conv_lhs => rw [closed]

theorem Closed.restful {c u : State} (closed : Closed c u) (outside : c.ctl.inOperation = false) : Restful u := by
  unfold Closed at closed
  refine ⟨?_, by rw [closed]; rfl⟩
  rw [closed]
  exact (congrArg JobControl.inOperation (closeReplied_ctl c)).trans outside

theorem closeReplied_path (s : State) : (closeReplied s).path = s.path := by
  have ended : ∀ r d, (endPending r d s).path = s.path := fun r d => by unfold endPending; split <;> rfl
  unfold closeReplied
  split <;> exact ended ..

theorem Closed.queues {c u : State} (closed : Closed c u) (k : Ply) : (feeder u k).queue = (feeder c k).queue := by
  unfold Closed at closed
  unfold feeder
  rw [closed, ← closeReplied_path c]
  fin_cases k <;> rfl

theorem Closed.job {c u : State} (closed : Closed c u) : u.ctl.job = .idle := by
  unfold Closed at closed
  rw [closed]
  rfl

/-- What is freed after the end of CLOSE is still that end. -/
theorem Closed.freed {c y : State} (closed : Closed c y) (outside : c.ctl.inOperation = false)
    (empty : ∀ k, (feeder c k).queue = []) : Closed c (freed y) := by
  have ended : ∀ z : State, ∃ st, endRecovery z = { z with store := st } := fun z => by
    unfold endRecovery
    split
    · exact ⟨_, rfl⟩
    · exact ⟨z.store, rfl⟩
  obtain ⟨st, h⟩ := ended { y with store := { y.store with op := none } }
  have closed' : Closed c (endRecovery { y with store := { y.store with op := none } }) := by
    rw [h]
    exact closed.stock st y.report
  unfold Safety.freed
  generalize endRecovery { y with store := { y.store with op := none } } = z at closed'
  obtain ⟨st', rep, chooses, -, -⟩ := chooseNext_restful (closed'.restful outside)
    (by rw [closed'.job]; exact fun h => by cases h)
  have last := closed'.stock st' rep
  rw [chooses, settle_unheld fun k => (last.queues k).trans (empty k)]
  exact last

theorem Closed.fault {c y : State} (closed : Closed c y) (outside : c.ctl.inOperation = false) :
    Closed c (raise .storeFault 0 0 y) := by
  rw [raise_restful (closed.restful outside)]
  exact closed.stock y.store _

/-! ## The reservation at the head (R17, R18, R39) -/

theorem streamAt_limited (limit : Option Word) (s : State) (x : StreamId) :
    streamAt (limited x limit s) x = { streamAt s x with limit, inFlight := false } := Four.get_set_same ..

theorem pendingAtZero_congr {s u : State} (h : u.pipe = s.pipe) : pendingAtZero u = pendingAtZero s := by
  unfold pendingAtZero entryAt
  rw [h]

section
variable {w : State} {body : EntryBody} {x : StreamId} {book : Word} {dir : Direction} {l : Word} {rest : List Request}
  (busy : w.store.op ≠ none) (queue : w.store.queue = .reservation x book dir l :: rest)
include busy queue

theorem reservation_done : appendVerified body true w = resolvePending
    (renewed x (limited x (some (streamAt w x).requested) (answered (tableAfter body w.store.table) w))) := by
  rw [appendVerified_done queue]
  exact streamCompleted_eq x (s := answered (tableAfter body w.store.table) w) busy

omit busy in
theorem reservation_failed (again : w.store.retried = true) : appendVerified body false w =
    raise .storeFault 0 0 (resolvePending (limited x (streamAt w x).limit (answered w.store.table w))) :=
  appendVerified_failed queue again

theorem draws_reservation_done :
    Draws (limited x (some (streamAt w x).requested) (answered (tableAfter body w.store.table) w))
      (appendVerified body true w) := by
  rw [appendVerified_done queue]
  exact draws_streamCompleted x (s := answered (tableAfter body w.store.table) w) busy

/-- The limit a completed reservation leaves, CLOSE not in progress. -/
theorem reservation_limit (open_job : w.ctl.job ≠ .closing) :
    (streamAt (freed (appendVerified body true w)) x).limit = some (streamAt w x).requested := by
  have draws := draws_reservation_done (body := body) busy queue
  have still : ¬MayClose (appendVerified body true w) := fun may => open_job (draws.closing.1 may.1)
  rw [streamAt, (freed_silent (.inl still)).1]
  exact (draws.limit x).trans (congrArg StreamState.limit (streamAt_limited ..))

section
variable (calm : w.ctl.job ≠ .run ∨ pendingAtZero w = false)
include calm

/-- With no PENDING entry to resolve the renewal is all that follows (R16, R17). -/
theorem reservation_renewed {t : Ticket} (open_job : w.ctl.job ≠ .closing) (active : w.ticket.active = some t)
    (works : ∀ c, w.store.phase ≠ .failed c) {y : StreamState}
    (hy : y = { streamAt w x with limit := some (streamAt w x).requested, inFlight := false }) :
    streamAt (freed (appendVerified body true w)) x =
      askedStream (if Booked t x then renewalDue (t.streams.get x) y else none) (decide (rest.length < 40)) y := by
  rw [reservation_done busy queue]
  have own := streamAt_limited (some (streamAt w x).requested) (answered (tableAfter body w.store.table) w) x
  have left : (limited x (some (streamAt w x).requested) (answered (tableAfter body w.store.table) w)).store.queue = rest :=
    congrArg List.tail queue
  generalize hz : limited x (some (streamAt w x).requested) (answered (tableAfter body w.store.table) w) = z at *
  have zctl : z.ctl = w.ctl := by rw [← hz]; rfl
  have zpipe : z.pipe = w.pipe := by rw [← hz]; rfl
  have zactive : z.ticket.active = some t := by rw [← hz]; exact active
  have zworks : ∀ c, z.store.phase ≠ .failed c := by rw [← hz]; exact works
  obtain ⟨ticket, ctl, pipe⟩ := renewed_rest x z
  rw [resolvePending_none (.inr (calm.imp (fun other => by rw [ctl, zctl]; exact other)
    fun none => (pendingAtZero_congr (pipe.trans zpipe)).trans none))]
  have silent := freed_silent (y := renewed x z) (.inl fun may => open_job (by
    have job := may.1
    rw [ctl, zctl] at job
    exact job))
  rw [streamAt, silent.1]
  refine (renewed_stream zactive x (by rw [zctl]; exact open_job) zworks).trans ?_
  rw [renewalAsked, own, left, hy]
  rfl

omit busy in
theorem reservation_refused (again : w.store.retried = true) (open_job : w.ctl.job ≠ .closing ∨
    (freed (appendVerified body false w)).ctl.job = .closing) :
    streamAt (freed (appendVerified body false w)) x = { streamAt w x with inFlight := false } := by
  rw [reservation_failed queue again] at open_job ⊢
  have own := streamAt_limited (streamAt w x).limit (answered w.store.table w) x
  rw [resolvePending_none (s := limited x (streamAt w x).limit (answered w.store.table w)) (.inr calm)] at open_job ⊢
  have silent := freed_silent (y := raise .storeFault 0 0 (limited x (streamAt w x).limit (answered w.store.table w)))
    (open_job.imp_left fun other may => other ((closingSame_raise .storeFault 0 0 (limited x (streamAt w x).limit (answered w.store.table w))).1 may.1))
  rw [streamAt, silent.1, raise_streams]
  exact own

end

/-- In CLOSING the limit is taken and no renewal asked for (R190). -/
theorem reservation_closing (closing : w.ctl.job = .closing)
    (still : (freed (appendVerified body true w)).ctl.job = .closing) :
    (streamAt (freed (appendVerified body true w)) x).limit = some (streamAt w x).requested ∧
    (streamAt (freed (appendVerified body true w)) x).inFlight = false ∧
    (freed (appendVerified body true w)).store.queue <:+ rest := by
  rw [reservation_done busy queue] at still ⊢
  have own := streamAt_limited (some (streamAt w x).requested) (answered (tableAfter body w.store.table) w) x
  have left : (limited x (some (streamAt w x).requested) (answered (tableAfter body w.store.table) w)).store.queue = rest :=
    congrArg List.tail queue
  generalize hz : limited x (some (streamAt w x).requested) (answered (tableAfter body w.store.table) w) = z at *
  have job : z.ctl.job = .closing := by rw [← hz]; exact closing
  rw [renewed_none (.inr job), resolvePending_none (.inr (.inl (by rw [job]; decide)))] at still ⊢
  have chosen := freed_chosen z
  rw [streamAt, (freed_silent (.inr still)).1]
  refine ⟨(congrArg StreamState.limit own).trans rfl, (congrArg StreamState.inFlight own).trans rfl, ?_⟩
  rw [← left]
  exact chosen.queue

end

/-! ## The RETIRE at the head (R148) -/

/-- The part with the request at the head answered and a RETIRE's end given, STORE_FAULT raised where it failed. -/
theorem retire_ends {w : State} {body : EntryBody} {v : Bool} {b : Word} {rest : List Request} {p : PendingCommand}
    (queue : w.store.queue = .retire b :: rest) (waiting : w.ticket.waiting = some p) (kind : p.kind = .retire)
    (verified : v = true ∨ w.store.retried = true) :
    (freed (appendVerified body v w)).ticket = { w.ticket with
      waiting := none
      result := { code := 9, tag := p.tag, check := 0, echo1 := p.echo1, echo2 := p.echo2
                  result := if v then .done else .storeUnavailable
                  detail := if v then 0 else BitVec.ofNat 32 (storeStateCode w.store) } } ∧
    (v = false → (freed (appendVerified body v w)).store.table = w.store.table) := by
  have ticket : (appendVerified body v w).ticket = { w.ticket with
      waiting := none
      result := { code := 9, tag := p.tag, check := 0, echo1 := p.echo1, echo2 := p.echo2
                  result := if v then .done else .storeUnavailable
                  detail := if v then 0 else BitVec.ofNat 32 (storeStateCode w.store) } } := by
    cases v with
    | true =>
      rw [appendVerified_done queue]
      refine (congrArg State.ticket (endPending_eq (s := answered _ w) waiting .done 0)).trans ?_
      rw [kind]
      rfl
    | false =>
      rw [appendVerified_failed queue (verified.resolve_left (by decide)), raise_ticket]
      refine (congrArg State.ticket (endPending_eq (s := answered _ w) waiting .storeUnavailable _)).trans ?_
      rw [kind]
      rfl
  refine ⟨(freed_silent (.inl fun may => may.2 (by rw [ticket]))).2.trans ticket, ?_⟩
  rintro rfl
  rw [(freed_chosen _).table, appendVerified_failed queue (verified.resolve_left (by decide)), raise_store]
  change (failureNotice (.retire b) (answered w.store.table w)).store.table = _
  exact (congrArg Store.table (endPending_store .storeUnavailable _ (answered w.store.table w))).trans rfl

/-! ## The close append at the head (R145, R189, R191) -/

/-- CLOSE's record after a close append of stream x has verified, or failed. -/
def noted (v : Bool) (x : StreamId) (p : PendingCommand) : Option StreamId :=
  if v then p.failed else some (match p.failed with | some y => if y ≤ x then y else x | none => x)

/-- The part with a close append gone from the head: its row changed, CLOSE's record naming the lowest failure. -/
def closeNoted (v : Bool) (body : EntryBody) (x : StreamId) (b : Word) (p : PendingCommand) (w : State) : State :=
  { answered (if v then tableAfter body w.store.table else tableAfterFailedClose b w.store.table) w with
    ticket := { w.ticket with waiting := some { p with failed := noted v x p } } }

section
variable {w : State} {body : EntryBody} {v : Bool} {x : StreamId} {b : Word} {dir : Direction} {d : Option Word}
  {rest : List Request} {p : PendingCommand} (queue : w.store.queue = .closeAppend x b dir d :: rest)
  (waiting : w.ticket.waiting = some p)
include queue waiting

theorem closeAppend_verified (verified : v = true ∨ w.store.retried = true) : appendVerified body v w =
    if v then closeIfDone (closeNoted v body x b p w)
    else raise .storeFault 0 0 (closeIfDone (closeNoted v body x b p w)) := by
  cases v with
  | true =>
    have same : answered (tableAfter body w.store.table) w = closeNoted true body x b p w := by
      unfold closeNoted
      rw [show ({ p with failed := noted true x p } : PendingCommand) = p from rfl, ← waiting]
      rfl
    rw [appendVerified_done queue, same]
    rfl
  | false =>
    have same : closeFailed x b (answered w.store.table w) = closeNoted false body x b p w := by
      unfold closeFailed noteFailedClose
      rw [State.setStore_ticket, show (answered w.store.table w).ticket.waiting = some p from waiting]
      rfl
    rw [appendVerified_failed queue (verified.resolve_left (by decide)), if_neg Bool.false_ne_true, ← same]
    rfl

theorem closeAppend_table (verified : v = true ∨ w.store.retried = true) (failed : v = false) :
    (freed (appendVerified body v w)).store.table = tableAfterFailedClose b w.store.table := by
  subst failed
  rw [(freed_chosen _).table, closeAppend_verified queue waiting verified, if_neg Bool.false_ne_true, raise_store]
  dsimp only
  rw [(closeIfDone_warned _).rest]
  rfl

/-- While close appends are left CLOSE goes on, keeping its record. -/
theorem closeAppend_goes_on (verified : v = true ∨ w.store.retried = true)
    (left : rest.any Request.isCloseAppend = true) (still : (freed (appendVerified body v w)).ctl.job = .closing) :
    (freed (appendVerified body v w)).ticket.waiting = some { p with failed := noted v x p } := by
  rw [(freed_silent (.inr still)).2, closeAppend_verified queue waiting verified]
  have on : closeIfDone (closeNoted v body x b p w) = closeNoted v body x b p w := by
    refine if_neg fun h => ?_
    have none := h.2.2
    rw [show (closeNoted v body x b p w).store.queue = rest from congrArg List.tail queue, left] at none
    cases none
  rw [on]
  cases v with
  | true => rfl
  | false =>
    rw [if_neg Bool.false_ne_true, raise_ticket]
    rfl

theorem closeAppend_ends (verified : v = true ∨ w.store.retried = true) (kind : p.kind = .close)
    (closing : w.ctl.job = .closing) (none_left : rest.any Request.isCloseAppend = false)
    (outside : w.ctl.inOperation = false) (empty : ∀ k, (feeder w k).queue = []) :
    JobEnded (closeResult (noted v x p)) (closeDetail (noted v x p)) w (freed (appendVerified body v w)) := by
  have ended : closeIfDone (closeNoted v body x b p w) = closeEnd (closeNoted v body x b p w) :=
    closeIfDone_ends (c := closeNoted v body x b p w) rfl kind closing
      (by rw [show (closeNoted v body x b p w).store.queue = rest from congrArg List.tail queue]; exact none_left)
  have closed : Closed (closeNoted v body x b p w) (appendVerified body v w) := by
    rw [closeAppend_verified queue waiting verified, ended]
    cases v with
    | true => exact closeEnd_closed (c := closeNoted true body x b p w) outside
    | false => exact (closeEnd_closed (c := closeNoted false body x b p w) outside).fault outside
  exact jobEnded_of_record ((closed.freed outside empty).ended rfl kind) waiting rfl rfl ⟨rfl, rfl⟩ rfl

end

/-- Settles O55, by the verify's result and the request at the head. -/
theorem appendCompletes : Obligations.AppendCompletes := by
  intro s i n seq body v op
  refine ⟨_, exec_appendCompletion v op, ?_⟩
  rw [writeSlot_begin]
  have busy : (written i n { seq, body, sound := v } s).store.op ≠ none := by
    change s.store.op ≠ none
    rw [op]
    simp
  have left := (finishOperation_left seq (appendVerified body v (written i n { seq, body, sound := v } s))).array
  obtain ⟨entry, others, kept⟩ := written_slots i n { seq, body, sound := v } s (left.trans (appendVerified_keeps ..).array)
  refine ⟨entry, others, kept, ?_, fun more => ?_⟩
  · rintro rfl
    obtain ⟨worn, flag⟩ := finishOperation_worn (appendVerified body v (written i n { seq := 0xFFFFFFFE, body, sound := v } s))
    exact ⟨by rw [worn], by rw [worn], by rw [worn], by rw [worn], flag⟩
  · rw [finishOperation_freed more]
    refine ⟨?_, ?_, ?_, ?_, ?_, ?_, ?_⟩
    · rintro rfl
      rw [(freed_chosen _).table]
      exact appendVerified_table busy
    · rintro rfl again
      exact keepsFlags_freed _ _ (appendVerified_fault (w := written i n _ s) again)
    · rintro rfl first
      rw [(freed_chosen _).table, appendVerified_retries (w := written i n _ s) first]
      rfl
    · rintro rfl first writable
      rw [appendVerified_retries (w := written i n _ s) first]
      obtain ⟨queue, retried⟩ := freed_queue (y := (written i n { seq, body, sound := false } s).setStore
        { (written i n { seq, body, sound := false } s).store with retried := true })
        fun r hr => (congrArg Option.isSome (appendBody_congr rfl r)).trans (writable r hr)
      exact ⟨queue, retried⟩
    · rintro x book dir l rest w queue rfl
      generalize hw : written i n { seq, body, sound := v } s = w at busy ⊢
      have wqueue : w.store.queue = .reservation x book dir l :: rest := by rw [← hw]; exact queue
      have stream : streamAt w x = streamAt s x := by rw [← hw]; rfl
      have retried : w.store.retried = s.store.retried := by rw [← hw]; rfl
      have table : w.store.table = s.store.table := by rw [← hw]; rfl
      have ctl : w.ctl = s.ctl := by rw [← hw]; rfl
      have pend : pendingAtZero w = pendingAtZero s := pendingAtZero_congr (by rw [← hw]; rfl)
      have phase : w.store.phase = s.store.phase := by rw [← hw]; rfl
      have active : w.ticket.active = s.ticket.active := by rw [← hw]; rfl
      rw [← stream, ← retried, ← table, ← ctl, ← pend, ← phase, ← active]
      refine ⟨?_, ?_, ?_, fun calm open_job t y ha works => ⟨?_, ?_⟩, ?_, ?_⟩
      · rintro rfl
        rw [reservation_done busy wqueue]
      · rintro rfl again
        rw [reservation_failed wqueue again]
      · rintro rfl open_job
        exact reservation_limit busy wqueue open_job
      · rintro rfl hy
        exact reservation_renewed busy wqueue calm open_job ha works hy
      · rintro rfl again
        exact reservation_refused wqueue calm again (.inl open_job)
      · rintro rfl closing still
        exact reservation_closing busy wqueue closing still
      · rintro rfl again closing still
        exact reservation_refused wqueue (.inl (by rw [closing]; decide)) again (.inr still)
    · intro b rest p queue waiting kind verified
      obtain ⟨ticket, table⟩ := retire_ends (w := written i n { seq, body, sound := v } s) (body := body) queue waiting kind
        verified
      exact ⟨by rw [ticket], by rw [ticket]; rfl, table⟩
    · rintro x b dir d rest p f queue waiting kind closing verified rfl
      refine ⟨closeAppend_table (w := written i n { seq, body, sound := v } s) queue waiting verified,
        closeAppend_goes_on (w := written i n { seq, body, sound := v } s) queue waiting verified,
        fun none_left outside empty => ?_⟩
      have ends := closeAppend_ends (w := written i n { seq, body, sound := v } s) (body := body) queue waiting verified kind
        closing none_left outside empty
      have from_quiet := jobEnded_of_record (c := quiet s) ends waiting waiting rfl ⟨rfl, rfl⟩ rfl
      change JobEnded (if noted v x p = none then .done else .storeUnavailable)
        (match noted v x p with | some y => BitVec.ofNat 32 y.val | none => 0) (quiet s) _
      generalize noted v x p = f at from_quiet
      cases f with
      | none => exact from_quiet
      | some y => exact from_quiet

end Sys2Proof.Machine
end

section
/-! PROOFS. What a step leaves alone of the number store's bookkeeping, of the job and of the two queues' levels. -/

namespace Sys2Proof.Machine
open Sys2Proof.Safety

/-! ## The sizes -/

theorem Keeps.sizes {s t : State} (k : Keeps s t) (h : Sizes s) : Sizes t :=
  ⟨k.staged.trans h.staged, k.slots h.slots, k.runs h.runs, k.remakes h.remakes, k.requests h.requests⟩

theorem resetTo_sizes {b : Byte} {r : Report} (cut : Cut) (s : State) (slots : r.slots.length = 16) :
    Sizes (resetTo b r cut s) := ⟨reset_sizes.staged, slots, reset_sizes.runs, reset_sizes.remakes, reset_sizes.requests⟩

theorem writeSlot_sizes {i : SectorId} {n : Nat} {x : Slot} {s : State} (h : Sizes s) : Sizes (writeSlot i n x s) :=
  ⟨h.staged, h.slots, h.runs, h.remakes, h.requests⟩

theorem stepVerified_queue (c : Compaction) (body : EntryBody) (v : Bool) (st : Store) :
    (stepVerified c body v st).queue.length ≤ st.queue.length := (stepVerified_keeps c body v st).queue

theorem eraseVerified_queue (i : SectorId) (r : EraseResult) (st : Store) : (eraseVerified i r st).queue = st.queue := by
  cases r <;> rfl

theorem exec_sizes {c : Instr} {s t : State} (h : Sizes s) (run : exec c s = .next t) : Sizes t := by
  have begun : Sizes (begin s) := (begin_keeps s).sizes h
  rcases ordinary_or c with hc | ⟨b, cut, rfl⟩ | ⟨cut, rfl⟩ | rfl | ⟨v, rfl⟩ | ⟨v, rfl⟩ | ⟨r, rfl⟩
  · exact (exec_keeps_of_ordinary hc run).sizes h
  · cases run
    exact resetTo_sizes cut _ List.length_replicate
  · cases run
    exact resetTo_sizes cut _ h.slots
  · obtain rfl := Host.Outcome.next.inj run
    dsimp only
    split
    · exact begun
    · exact (scan_keeps _).sizes ⟨begun.staged, begun.slots, begun.runs, begun.remakes, begun.requests⟩
  · rcases appendCompletion_cases run with rfl | ⟨i, n, seq, body, -, rfl⟩
    · exact begun
    · exact ((appendVerified_keeps ..).trans (finishOperation_keeps ..)).sizes (writeSlot_sizes begun)
  · rcases stepCompletion_cases run with rfl | ⟨i, n, seq, body, c, -, -, rfl⟩
    · exact begun
    · have written := writeSlot_sizes (i := i) (n := n) (x := { seq, body, sound := v }) begun
      refine (finishOperation_keeps ..).sizes ⟨written.staged, written.slots, written.runs, written.remakes, ?_⟩
      exact le_trans (stepVerified_queue ..) written.requests
  · rcases eraseCompletion_cases run with rfl | ⟨i, -, rfl⟩
    · exact begun
    · refine (finishErase_keeps ..).sizes ⟨h.staged, h.slots, h.runs, h.remakes, ?_⟩
      rw [State.setStore_store]
      dsimp only
      rw [eraseVerified_queue]
      exact h.requests

/-! ## Beside the bookkeeping, and aside from the job and the levels -/

/-- Which entries are SET, by position. -/
def kinds (s : State) : List Bool := s.pipe.entries.map Entry.isSetEntry

theorem setCount_eq (s : State) : setCount s = (kinds s).count true := by
  rw [setCount, kinds, List.count_eq_countP, List.countP_map, List.countP_eq_length_filter]
  congr 1
  exact List.filter_congr fun e _ => by cases e <;> rfl

theorem setCount_congr {s t : State} (h : kinds t = kinds s) : setCount t = setCount s := by
  rw [setCount_eq, setCount_eq, h]

theorem setCount_le_length (s : State) : setCount s ≤ s.pipe.entries.length := List.length_filter_le ..

theorem length_of_kinds {s t : State} (h : kinds t = kinds s) : t.pipe.entries.length = s.pipe.entries.length := by
  simpa [kinds] using congrArg List.length h

/-- The store, the ticket's active and pending parts, and every reservation in flight are the same. -/
structure Beside (s t : State) : Prop where
  store : t.store = s.store
  active : t.ticket.active = s.ticket.active
  waiting : t.ticket.waiting = s.ticket.waiting
  inFlight : ∀ i, (streamAt t i).inFlight = (streamAt s i).inFlight

/-- Beside the bookkeeping the job moves, among the running states or to READY. -/
structure Alongside (s t : State) : Prop extends Beside s t where
  still : s.ctl.job.running = false → t.ctl.job = s.ctl.job
  runs : s.ctl.job.running = true → t.ctl.job ≠ .idle ∧ t.ctl.job ≠ .closing

/-- Alongside, neither the queue of records nor the entries nor the sets grow in number, and RUN is entered only under the
high-water level. -/
structure Aside (s t : State) : Prop extends Alongside s t where
  level : t.report.queue.length ≤ s.report.queue.length
  sets : setCount t ≤ setCount s
  length : t.pipe.entries.length ≤ s.pipe.entries.length
  remakes : t.spoil.remakes = s.spoil.remakes
  run : t.ctl.job = .run → s.ctl.job = .run ∨ t.report.queue.length < 48

namespace Beside

variable {s t u : State}

theorem refl (s : State) : Beside s s := ⟨rfl, rfl, rfl, fun _ => rfl⟩

theorem after (k : Beside t u) (h : Beside s t) : Beside s u :=
  ⟨k.store.trans h.store, k.active.trans h.active, k.waiting.trans h.waiting, fun i => (k.inFlight i).trans (h.inFlight i)⟩

theorem of_eq (store : t.store = s.store) (ticket : t.ticket = s.ticket) (streams : t.streams = s.streams) : Beside s t :=
  ⟨store, by rw [ticket], by rw [ticket], fun i => by rw [streamAt, streams]; rfl⟩

theorem foldl {α : Type} {f : State → α → State} (h : ∀ s x, Beside s (f s x)) (l : List α) (s : State) :
    Beside s (l.foldl f s) := by
  induction l generalizing s with
  | nil => exact .refl s
  | cons x l ih => exact (ih _).after (h s x)

end Beside

namespace Alongside

variable {s t u : State}

/-- The job state is the same too. -/
theorem of_beside (h : Beside s t) (job : t.ctl.job = s.ctl.job) : Alongside s t where
  toBeside := h
  still _ := job
  runs running := by rw [job]; constructor <;> rintro e <;> rw [e] at running <;> cases running

theorem refl (s : State) : Alongside s s := .of_beside (.refl s) rfl

theorem after (k : Alongside t u) (h : Alongside s t) : Alongside s u where
  toBeside := k.toBeside.after h.toBeside
  still stopped := by
    have job := h.still stopped
    rw [k.still (by rw [job]; exact stopped), job]
  runs going := by
    cases running : t.ctl.job.running with
    | true => exact k.runs running
    | false => rw [k.still running]; exact h.runs going

theorem of_eq (store : t.store = s.store) (ticket : t.ticket = s.ticket) (streams : t.streams = s.streams)
    (job : t.ctl.job = s.ctl.job) : Alongside s t := .of_beside (.of_eq store ticket streams) job

theorem foldl {α : Type} {f : State → α → State} (h : ∀ s x, Alongside s (f s x)) (l : List α) (s : State) :
    Alongside s (l.foldl f s) := by
  induction l generalizing s with
  | nil => exact .refl s
  | cons x l ih => exact (ih _).after (h s x)

theorem idle_iff (h : Alongside s t) : t.ctl.job = .idle ↔ s.ctl.job = .idle := by
  cases running : s.ctl.job.running with
  | false => rw [h.still running]
  | true => exact ⟨fun e => absurd e (h.runs running).1, fun e => by rw [e] at running; cases running⟩

theorem closing_iff (h : Alongside s t) : t.ctl.job = .closing ↔ s.ctl.job = .closing := by
  cases running : s.ctl.job.running with
  | false => rw [h.still running]
  | true => exact ⟨fun e => absurd e (h.runs running).2, fun e => by rw [e] at running; cases running⟩

end Alongside

namespace Aside

variable {s t u : State}

theorem running (h : Aside s t) (r : t.ctl.job.running = true) : s.ctl.job.running = true := by
  cases before : s.ctl.job.running with
  | true => rfl
  | false => rw [h.still before, before] at r; cases r

/-- The job state, the records and the kinds of the entries are the same too. -/
theorem of_beside (h : Beside s t) (job : t.ctl.job = s.ctl.job) (level : t.report.queue.length ≤ s.report.queue.length)
    (same : kinds t = kinds s) (remakes : t.spoil.remakes = s.spoil.remakes) : Aside s t where
  toAlongside := .of_beside h job
  level := level
  sets := (setCount_congr same).le
  length := (length_of_kinds same).le
  remakes := remakes
  run e := .inl (job ▸ e)

theorem refl (s : State) : Aside s s := .of_beside (.refl s) rfl le_rfl rfl rfl

theorem after (k : Aside t u) (h : Aside s t) : Aside s u where
  toAlongside := k.toAlongside.after h.toAlongside
  level := le_trans k.level h.level
  sets := le_trans k.sets h.sets
  length := le_trans k.length h.length
  remakes := k.remakes.trans h.remakes
  run e := by
    rcases k.run e with e | low
    · rcases h.run e with e | low
      · exact .inl e
      · exact .inr (lt_of_le_of_lt k.level low)
    · exact .inr low

theorem foldl {α : Type} {f : State → α → State} (h : ∀ s x, Aside s (f s x)) (l : List α) (s : State) :
    Aside s (l.foldl f s) := by
  induction l generalizing s with
  | nil => exact .refl s
  | cons x l ih => exact (ih _).after (h s x)

theorem setBus (x : Bus) : Aside s (s.setBus x) := .of_beside (.of_eq rfl rfl rfl) rfl le_rfl rfl rfl
theorem setPath (x : Path) : Aside s (s.setPath x) := .of_beside (.of_eq rfl rfl rfl) rfl le_rfl rfl rfl
theorem setTicket {x : TicketBlock} (active : x.active = s.ticket.active) (waiting : x.waiting = s.ticket.waiting) :
    Aside s (s.setTicket x) := .of_beside ⟨rfl, active, waiting, fun _ => rfl⟩ rfl le_rfl rfl rfl
theorem setPipe {x : Pipeline} (h : x.entries.map Entry.isSetEntry = kinds s) : Aside s (s.setPipe x) :=
  .of_beside (.of_eq rfl rfl rfl) rfl le_rfl h rfl
theorem setTally (x : Six Receiver) : Aside s (s.setTally x) := .of_beside (.of_eq rfl rfl rfl) rfl le_rfl rfl rfl
theorem setSpoil {x : SpoilUnit} (remakes : x.remakes = s.spoil.remakes) : Aside s (s.setSpoil x) :=
  .of_beside (.of_eq rfl rfl rfl) rfl le_rfl rfl remakes
theorem setLines (x : LineMonitor) : Aside s (s.setLines x) := .of_beside (.of_eq rfl rfl rfl) rfl le_rfl rfl rfl
theorem setTimer (x : PitchTimer) : Aside s (s.setTimer x) := .of_beside (.of_eq rfl rfl rfl) rfl le_rfl rfl rfl
theorem setFree (x : Nat) : Aside s (s.setFree x) := .of_beside (.of_eq rfl rfl rfl) rfl le_rfl rfl rfl
theorem setCtl {x : JobControl} (job : x.job = s.ctl.job) : Aside s (s.setCtl x) :=
  .of_beside (.of_eq rfl rfl rfl) job le_rfl rfl rfl
theorem setReport {x : Report} (level : x.queue.length ≤ s.report.queue.length) : Aside s (s.setReport x) :=
  .of_beside (.of_eq rfl rfl rfl) rfl level rfl rfl

/-- A running state replaced by one of HOLD, DRAIN, HALTED and READY. -/
theorem leaves (h : Beside s t) (running : s.ctl.job.running = true) (idle : t.ctl.job ≠ .idle) (closing : t.ctl.job ≠ .closing)
    (run : t.ctl.job ≠ .run) (level : t.report.queue.length ≤ s.report.queue.length)
    (same : kinds t = kinds s ∨ t.pipe.entries = []) (remakes : t.spoil.remakes = s.spoil.remakes) : Aside s t where
  toBeside := h
  still stopped := by rw [running] at stopped; cases stopped
  runs _ := ⟨idle, closing⟩
  level := level
  sets := by
    rcases same with same | none
    · exact (setCount_congr same).le
    · rw [setCount, none]
      exact Nat.zero_le _
  length := by
    rcases same with same | none
    · exact (length_of_kinds same).le
    · rw [none]
      exact Nat.zero_le _
  remakes := remakes
  run e := absurd e run

end Aside

/-! ## The kinds of the entries -/

theorem mark_isSetEntry (c : Cause) (k : Option Ply) (e : Entry) : (Entry.mark c k e).isSetEntry = e.isSetEntry := by
  cases e <;> rfl

theorem map_modify_kinds {f : Entry → Entry} {p : Nat} {es : List Entry}
    (h : ∀ e, es[p]? = some e → (f e).isSetEntry = e.isSetEntry) :
    (es.modify p f).map Entry.isSetEntry = es.map Entry.isSetEntry := by
  apply List.ext_getElem
  · simp
  · intro i h1 h2
    simp only [List.getElem_map, List.getElem_modify]
    split
    next same =>
      subst same
      exact h _ (List.getElem?_eq_getElem _)
    · rfl

theorem markAt_aside (p : Nat) (c : Cause) (k : Option Ply) (s : State) : Aside s (markAt p c k s) :=
  .setPipe (map_modify_kinds fun e _ => mark_isSetEntry c k e)

theorem changeSet_kinds (n : Word) (a : BitVec 2) (f : SetEntry → SetEntry) (s : State) :
    kinds (changeSet n a f s) = kinds s := by
  refine (List.map_map ..).trans (List.map_congr_left fun e _ => ?_)
  cases e with
  | set x => simp only [Function.comp]; split <;> rfl
  | blank => rfl
  | pending => rfl

theorem changeSet_aside (n : Word) (a : BitVec 2) (f : SetEntry → SetEntry) (s : State) : Aside s (changeSet n a f s) :=
  .setPipe (changeSet_kinds n a f s)

theorem markSerial_aside (n : Word) (a : BitVec 2) (c : Cause) (k : Option Ply) (s : State) :
    Aside s (markSerial n a c k s) := changeSet_aside ..

theorem markHalt_kinds (s : State) : kinds (markHalt s) = kinds s := by
  refine (List.map_map ..).trans (List.map_congr_left fun e _ => ?_)
  cases e <;> rfl

/-- A PENDING entry is no more a SET entry than the BLANK one it becomes. -/
theorem blankPending_kinds (s : State) : kinds (blankPending s) = kinds s := by
  unfold blankPending
  split
  next pending =>
    refine map_modify_kinds fun e first => ?_
    rw [pendingAtZero, entryAt, List.getD_eq_getElem?_getD, first] at pending
    cases e with
    | pending => rfl
    | blank => cases pending
    | set => cases pending
  · rfl

theorem blankPending_beside (s : State) : Beside s (blankPending s) := by
  rw [blankPending_eq]
  exact .of_eq rfl rfl rfl

theorem blankPending_aside (s : State) : Aside s (blankPending s) :=
  .of_beside (blankPending_beside s) (by simp) (by rw [blankPending_eq]) (blankPending_kinds s)
    (by rw [blankPending_eq])

/-! ## Claims and raises -/

theorem run_or_drain {s : State} (h : s.ctl.job = .run ∨ s.ctl.job = .hold ∨ s.ctl.job = .drain) :
    s.ctl.job.running = true := by
  rcases h with e | e | e <;> rw [e] <;> rfl

theorem enterHold_aside {s : State} (running : s.ctl.job.running = true) : Aside s (enterHold s) := by
  refine .leaves (Beside.after (t := blankPending s) (.of_eq rfl rfl rfl) (blankPending_beside s)) running ?_ ?_ ?_ ?_ ?_ ?_
  · exact fun e => by cases e
  · exact fun e => by cases e
  · exact fun e => by cases e
  · exact (blankPending_aside s).level
  · exact .inl (blankPending_kinds s)
  · exact (blankPending_aside s).remakes

theorem enterDrain_aside {s : State} (running : s.ctl.job.running = true) : Aside s (enterDrain s) := by
  refine .leaves (Beside.after (t := blankPending s) (.of_eq rfl rfl rfl) (blankPending_beside s)) running ?_ ?_ ?_ ?_ ?_ ?_
  · exact fun e => by cases e
  · exact fun e => by cases e
  · exact fun e => by cases e
  · exact (blankPending_aside s).level
  · exact .inl (blankPending_kinds s)
  · exact (blankPending_aside s).remakes

theorem enterHalted_aside (kind : FaultKind) (ply : BitVec 3) (serial : Word) {s : State}
    (running : s.ctl.job.running = true) : Aside s (enterHalted kind ply serial s) := by
  refine .leaves (Beside.after (t := blankPending s) (.of_eq rfl rfl rfl) (blankPending_beside s)) running ?_ ?_ ?_ ?_ ?_ ?_
  · exact fun e => by cases e
  · exact fun e => by cases e
  · exact fun e => by cases e
  · exact (blankPending_aside s).level
  · exact .inl ((markHalt_kinds (blankPending s)).trans (blankPending_kinds s))
  · exact (blankPending_aside s).remakes

theorem enterReady_aside {s : State} (running : s.ctl.job.running = true) : Aside s (enterReady s) := by
  refine .leaves (.of_eq rfl rfl rfl) running ?_ ?_ ?_ le_rfl (.inr rfl) rfl
  · exact fun e => by cases e
  · exact fun e => by cases e
  · exact fun e => by cases e

theorem holdTest_aside (s : State) : Aside s (holdTest s) := by
  unfold holdTest
  split
  next h => exact enterHold_aside (run_running h.1)
  · exact .refl s

theorem applyClaim_aside (c : Claim) (s : State) : Aside s (applyClaim c s) := by
  unfold applyClaim
  split
  · split
    · exact .refl s
    · split
      next run =>
        have flagged : Aside s (s.setCtl { s.ctl with fault := true }) := .setCtl rfl
        exact (enterHold_aside (s := s.setCtl { s.ctl with fault := true }) (run_running run)).after flagged
      · exact .refl s
    · split
      next on => exact enterHalted_aside _ _ _ (run_or_drain on)
      · exact .refl s
  · split
    next run => exact enterDrain_aside (run_running run)
    · exact .refl s
  · split
    next drain => exact enterReady_aside (by rw [drain]; rfl)
    · exact .refl s
  · exact holdTest_aside s

theorem claim_aside (c : Claim) (s : State) : Aside s (claim c s) := by
  unfold claim
  split
  · exact .setCtl rfl
  · exact applyClaim_aside c s

theorem endOperation_aside (s : State) : Aside s (endOperation s) := by
  unfold endOperation
  generalize arrange s.freeCount s.ctl.claims = cs
  refine (Aside.foldl (fun s c => applyClaim_aside c s) cs _).after ?_
  exact .of_beside (.of_eq rfl rfl rfl) rfl le_rfl rfl rfl

theorem recordFault_aside (kind : FaultKind) (ply : BitVec 3) (serial : Word) (s : State) :
    Aside s (recordFault kind ply serial s) := .setReport le_rfl

theorem raise_aside (kind : FaultKind) (ply : BitVec 3) (serial : Word) (s : State) : Aside s (raise kind ply serial s) :=
  (claim_aside ..).after (recordFault_aside kind ply serial s)

theorem raiseAll_aside (rs : List (FaultKind × BitVec 3 × Word)) (s : State) : Aside s (raiseAll rs s) :=
  (Aside.foldl (fun _ _ => raise_aside ..) _ _).after (.setFree _)

theorem pushRecord_alongside (r : Record) (s : State) : Alongside s (pushRecord r s) := by
  have reported : Alongside s (s.setReport { s.report with queue := s.report.queue ++ [r] }) := .of_eq rfl rfl rfl rfl
  unfold pushRecord
  dsimp only
  split
  · exact (claim_aside ..).toAlongside.after reported
  · exact reported

theorem decideSet_alongside (p : Policy) (e : SetEntry) (s : State) : Alongside s (decideSet p e s) := by
  have counted : ∀ x, Alongside s (s.setSpoil x) := fun x => .of_eq rfl rfl rfl rfl
  unfold decideSet
  dsimp only
  split
  · exact (pushRecord_alongside ..).after (counted _)
  · exact (pushRecord_alongside ..).after (counted _)
  · exact (pushRecord_alongside ..).after (counted _)
  · exact (raise_aside ..).toAlongside.after ((pushRecord_alongside ..).after (counted _))
  · exact (raise_aside ..).toAlongside.after ((pushRecord_alongside ..).after (counted _))

theorem decideEntry_alongside (p : Policy) (e : Entry) (s : State) : Alongside s (decideEntry p e s) := by
  unfold decideEntry
  split
  · exact decideSet_alongside ..
  · exact .of_eq rfl rfl rfl rfl

theorem shiftAndDecide_alongside (t : Ticket) (s : State) : Alongside s (shiftAndDecide t s) := by
  unfold shiftAndDecide
  split
  · exact (decideEntry_alongside ..).after (.of_eq rfl rfl rfl rfl)
  · exact .refl s

theorem abortEntry_alongside (s : State) (e : Entry) : Alongside s (abortEntry s e) := by
  unfold abortEntry
  split
  · exact (pushRecord_alongside ..).after (.of_eq rfl rfl rfl rfl)
  · exact .refl s

theorem unmadeEntry_alongside (s : State) (x : RemakeEntry) : Alongside s (unmadeEntry s x) :=
  (pushRecord_alongside ..).after (.of_eq rfl rfl rfl rfl)

theorem closeRemakes_alongside (s : State) : Alongside s (closeRemakes s) :=
  (Alongside.foldl unmadeEntry_alongside _ _).after (.of_eq rfl rfl rfl rfl)

theorem pushSummaries_alongside (t : Ticket) (s : State) : Alongside s (pushSummaries t s) :=
  .foldl (fun s r => pushRecord_alongside r s) _ _

/-! ## Responses -/

theorem applyPathMark_aside (k : Ply) (m : PathMark) (s : State) : Aside s (applyPathMark k m s) := by
  unfold applyPathMark
  split
  · unfold completeField
    split
    · exact .refl s
    · exact changeSet_aside ..
  · exact (raise_aside ..).after (markSerial_aside ..)
  · split
    · exact (raise_aside ..).after (markSerial_aside ..)
    · exact .refl s

theorem takeResponse_aside (k : Ply) (r : Response) (s : State) : Aside s (takeResponse k r s) := by
  unfold takeResponse
  split
  · exact .setBus _
  · exact Aside.after (.setBus _) ((Aside.foldl (fun s m => applyPathMark_aside k m s) _ _).after (.setPath _))

theorem takeHead_aside (k : Ply) (s : State) : Aside s (takeHead k s) := by
  unfold takeHead
  dsimp only
  split
  · exact .refl s
  · exact (takeResponse_aside ..).after (.setPath _)

theorem bindExpire_aside (k : Ply) (s : State) : Aside s (bindExpire k s) :=
  (raise_aside ..).after (blankPending_aside s)

theorem serveHead_aside (k : Ply) (s : State) : Aside s (serveHead k s) := by
  unfold serveHead
  split
  · exact .refl s
  · split
    · unfold holdHead
      dsimp only
      split
      · exact (bindExpire_aside ..).after (.setPath _)
      · exact .setPath _
    · exact takeHead_aside k s

theorem settle_aside (s : State) : Aside s (settle s) :=
  settle_induction (P := Aside s) (fun _ k _ _ before => ((serveHead_aside k _).after (.setFree _)).after before) (.refl s)

theorem releaseHeads_aside (s : State) : Aside s (releaseHeads s) :=
  (Aside.foldl (fun s k => takeHead_aside k s) _ _).after (.setFree _)

theorem spliceStep_aside (s : State) (k : Ply) : Aside s (spliceStep s k) := by
  unfold spliceStep
  dsimp only
  split
  · split
    · exact .refl s
    · exact (markAt_aside ..).after (.setSpoil rfl)
  · exact .refl s

theorem drainedNotice_aside (s : State) : Aside s (drainedNotice s) := by
  unfold drainedNotice
  split
  · exact claim_aside ..
  · exact .refl s

/-! ## Checks, lines and edges -/

theorem imageCheck_kinds (t : Ticket) (k : Ply) (es : List Entry) :
    (imageCheck t k es).1.map Entry.isSetEntry = es.map Entry.isSetEntry := by
  unfold imageCheck
  dsimp only
  split
  · rfl
  · split
    next e found =>
      refine map_modify_kinds fun x here => ?_
      rw [List.getD_eq_getElem?_getD, here] at found
      cases x with
      | set => rfl
      | blank => cases found
      | pending => cases found
    · rfl

theorem imageChecks_kinds (t : Ticket) (es : List Entry) :
    (imageChecks t es).1.map Entry.isSetEntry = es.map Entry.isSetEntry := by
  unfold imageChecks
  suffices h : ∀ (l : List Ply) (acc : List Entry × List (FaultKind × BitVec 3 × Word)),
      (l.foldl (fun acc k => let r := imageCheck t k acc.1; (r.1, acc.2 ++ r.2)) acc).1.map Entry.isSetEntry =
        acc.1.map Entry.isSetEntry from h _ _
  intro l
  induction l with
  | nil => exact fun acc => rfl
  | cons k l ih => exact fun acc => (ih _).trans (imageCheck_kinds t k acc.1)

theorem tallyCheck_kinds (t : Ticket) (es : List Entry) :
    (tallyCheck t es).1.map Entry.isSetEntry = es.map Entry.isSetEntry := by
  unfold tallyCheck
  split
  next e found =>
    refine map_modify_kinds fun x here => ?_
    rw [List.getD_eq_getElem?_getD, here] at found
    cases x with
    | set => rfl
    | blank => cases found
    | pending => cases found
  · rfl

theorem deadlineCheck_aside (t : Ticket) (s : State) : Aside s (deadlineCheck t s) :=
  (raiseAll_aside ..).after (.setPipe (imageChecks_kinds t _))

theorem closingChecks_aside (t : Ticket) (first : List (FaultKind × BitVec 3 × Word)) (s : State) :
    Aside s (closingChecks t first s) := by
  have judged : Aside s (s.setEntries (tallyCheck t (imageChecks t s.pipe.entries).1).1) :=
    .setPipe ((tallyCheck_kinds ..).trans (imageChecks_kinds ..))
  unfold closingChecks
  dsimp only
  split
  · exact (releaseHeads_aside _).after ((blankPending_aside _).after ((raiseAll_aside ..).after judged))
  · exact (raiseAll_aside ..).after judged

theorem deadline_aside (t : Ticket) (s : State) : Aside s (deadline t s) := by
  unfold deadline
  dsimp only
  split
  · exact (settle_aside _).after ((deadlineCheck_aside ..).after (.setTimer _))
  · exact .setTimer _

theorem sampleLines_aside (levels : BitVec 18) (s : State) : Aside s (sampleLines levels s) := by
  unfold sampleLines
  split <;> exact .setLines _

theorem takeEdge_aside {n : Fin 18} {s t : State} (h : takeEdge n s = some t) : Aside s t := by
  unfold takeEdge at h
  split at h
  · cases h
    exact .setLines _
  · split at h
    · cases h
      exact .setLines _
    · cases h

theorem takeLevel_aside (n : Fin 18) (a : Bool) (s : State) : Aside s (takeLevel n a s) := by
  unfold takeLevel
  split
  · exact .refl s
  · exact .setLines _

theorem holdreqTo_aside (a : Bool) (s : State) : Aside s (holdreqTo a s) := by
  unfold holdreqTo
  dsimp only
  split
  · exact (holdTest_aside _).after (.setLines _)
  · exact .setLines _

theorem spliceTaken_aside (k : Ply) (s : State) : Aside s (spliceTaken k s) := by
  unfold spliceTaken
  split
  · split
    · exact (settle_aside _).after ((raise_aside ..).after (Aside.after (.setSpoil rfl) (markAt_aside ..)))
    · exact .refl s
  · exact .refl s

theorem onEdge_aside {n : Fin 18} {f : State → State} {s t : State} (each : ∀ u, Aside u (f u))
    (h : onEdge n f s = .next t) : Aside s t := by
  obtain rfl := Host.Outcome.next.inj h
  split
  · exact .setBus _
  · split
    next s' edge => exact (each s').after ((takeEdge_aside edge).after (.setBus _))
    · exact .setBus _

/-! ## Tally reports -/

theorem completeReport_aside (k : Ply) (r : TallyReport) (s : State) : Aside s (completeReport k r s) := by
  unfold completeReport
  split
  · exact .refl s
  next t _ =>
    dsimp only
    split
    · exact .setTally _
    next e target =>
      have counted : Aside s (setReceiver k ((s.tally.get k).count (r == .malformed) (attributed t k s).isNone) s) :=
        .setTally _
      have placed : Aside s (putAt t.collator (compareReport t k e r).1
          (setReceiver k ((s.tally.get k).count (r == .malformed) (attributed t k s).isNone) s)) := by
        refine Aside.after (.setPipe (map_modify_kinds fun x here => ?_)) counted
        unfold attributed at target
        split at target
        · split at target
          next there =>
            have here : s.pipe.entries[t.collator]? = some x := here
            rw [entryAt, List.getD_eq_getElem?_getD, here] at there
            cases there
            rfl
          · cases target
        · cases target
      split
      · exact (settle_aside _).after ((raise_aside ..).after placed)
      · exact placed

theorem takeCharacter_aside (k : Ply) (c : TallyChar) (s : State) : Aside s (takeCharacter k c s) := by
  unfold takeCharacter
  dsimp only
  split
  · exact (completeReport_aside ..).after (.setTally _)
  · exact .setTally _

/-! ## The ticket block and the faces -/

theorem answer_aside (code tag : Byte) (r : ResultCode) (check : BitVec 3) (detail : Word) (s : State) :
    Aside s (answer code tag r check detail s) := .setTicket rfl rfl

theorem stageWord_aside (a : Addr) (w : WordWrite) (s : State) : Aside s (stageWord a w s) := by
  unfold stageWord
  split
  · exact .setTicket rfl rfl
  · exact .setTicket rfl rfl
  · exact .setTicket rfl rfl
  · exact .refl s
  · exact .refl s

theorem stageWords_aside (a : Addr) (ws : List WordWrite) (s : State) : Aside s (stageWords a ws s) := by
  induction ws generalizing a s with
  | nil => exact .refl s
  | cons w ws ih => exact (ih ..).after (stageWord_aside ..)

theorem overlayWords_aside (a : Addr) (ws : List Word) (s : State) : Aside s (overlayWords a ws s).2 := by
  induction ws generalizing a s with
  | nil => exact .refl s
  | cons w ws ih =>
    unfold overlayWords
    refine (ih ..).after ?_
    unfold overlayWord
    split
    · dsimp only
      split
      · exact .setReport (by simp)
      · exact .refl s
    · exact .refl s
    · exact .refl s
    · exact .refl s

theorem controllerResponse_aside (r : Response) (s : State) : Aside s (controllerResponse r s) := by
  unfold controllerResponse
  split
  · exact .setBus _
  · exact Aside.after (.setBus _) (overlayWords_aside ..)

end Sys2Proof.Machine
end

section
/-! PROOFS. A property that every ordinary command keeps, by the few things it does beside the bookkeeping; the part before
its scan. -/

namespace Sys2Proof.Machine
open Sys2Proof.Safety

/-! ## What an ordinary command can do -/

/-- A property kept by what is aside from the bookkeeping, by each command of the press controller, by the pitch events and
by the power warning. -/
structure Invariable (P : State → Prop) : Prop where
  aside : ∀ {s t}, Aside s t → P s → P t
  command : ∀ (code tag : Byte) {s}, s.ticket.waiting = none → P s → P (commandOf code tag s)
  pitch : ∀ first {s}, P s → P (pitch first s)
  active : ∀ {s}, P s → P (powerActive s)
  inactive : ∀ {s u}, u.store = s.store → P u → P (chooseIfLeft s (powerInactive u))

namespace Invariable

variable {P : State → Prop} (h : Invariable P)
include h

theorem take (code tag : Byte) {s : State} (k : P s) : P (takeCommand code tag (commandOf code) s) := by
  unfold takeCommand
  split
  · exact h.aside (answer_aside ..) k
  next free => exact h.command code tag free k

theorem write (code : Byte) (w : CommandWrite) {s : State} (k : P s) : P (writeCommand code (commandOf code) w s) := by
  have passed : ∀ x, P (s.setBus x) := fun x => h.aside (.setBus x) k
  unfold writeCommand
  dsimp only
  split
  · exact passed _
  · exact h.take code w.tag (h.aside (stageWords_aside ..) (passed _))

theorem writeWord (c : WordWrite) {s : State} (k : P s) : P (writeCommandWord c s) := by
  unfold writeCommandWord
  split
  · exact h.take _ _ k
  · exact h.aside (.setTicket rfl rfl) k

theorem access (a : Addr) (ws : List WordWrite) {s : State} (k : P s) : P (writeAccess a ws s) := by
  have passed : P (passDown controllerId { addr := a, body := .write ws } s) := h.aside (.setBus _) k
  unfold writeAccess
  dsimp only
  split
  · exact passed
  · have staged := h.aside (stageWords_aside a ws _) passed
    split
    · exact h.writeWord _ staged
    · exact staged

theorem cue {s : State} (k : P s) : P (takeCue s) := by
  unfold takeCue
  split
  · exact h.pitch _ k
  · split
    · exact k
    · split
      · exact h.aside (.setTimer _) k
      · exact h.pitch _ k

theorem onEdge {n : Fin 18} {f : State → State} (each : ∀ {u}, P u → P (f u)) {s t : State} (k : P s)
    (run : Machine.onEdge n f s = .next t) : P t := by
  have begun := h.aside (.setBus (s := s) ⟨[], []⟩) k
  obtain rfl := Host.Outcome.next.inj run
  split
  · exact begun
  · split
    next s' edge => exact each (h.aside (takeEdge_aside edge) begun)
    · exact begun

/-- An ordinary command keeps the property. -/
theorem exec {c : Instr} (ordinary : Ordinary c) {s t : State} (k : P s) (run : exec c s = .next t) : P t := by
  have begun : P (begin s) := h.aside (.setBus _) k
  obtain ⟨noPower, noWarm, noScan, noAppend, noStep, noErase⟩ := ordinary
  cases c with
  | powerOnReset b cut => exact absurd rfl (noPower b cut)
  | warmReset cut => exact absurd rfl (noWarm cut)
  | recoveryScan => exact absurd rfl noScan
  | appendCompletion v => exact absurd rfl (noAppend v)
  | compactionStepCompletion v => exact absurd rfl (noStep v)
  | eraseCompletion r => exact absurd rfl (noErase r)
  | spliceEdge k' => exact h.onEdge (fun k => h.aside (spliceTaken_aside k' _) k) k run
  | breakEdge k' => exact h.onEdge (fun k => h.aside ((settle_aside _).after (raise_aside ..)) k) k run
  | jamEdge => exact h.onEdge (fun k => h.aside ((settle_aside _).after (raise_aside ..)) k) k run
  | cueEdge => exact h.onEdge h.cue k run
  | load w => cases run; exact h.write 1 w begun
  | start w => cases run; exact h.write 2 w begun
  | stop w => cases run; exact h.write 3 w begun
  | hold w => cases run; exact h.write 4 w begun
  | resume w => cases run; exact h.write 5 w begun
  | abort w => cases run; exact h.write 6 w begun
  | close w => cases run; exact h.write 7 w begun
  | spoil w => cases run; exact h.write 8 w begun
  | retire w => cases run; exact h.write 9 w begun
  | ack w => cases run; exact h.write 10 w begun
  | clearHistory w => cases run; exact h.write 11 w begun
  | unknownCommand code w => cases run; exact h.write code w begun
  | partialCommandWrite c a1 a2 => cases run; exact h.access _ _ begun
  | stagingWrite a ws => cases run; exact h.access _ _ begun
  | popWordRead r => cases run; exact h.aside (controllerResponse_aside ..) begun
  | headFeederAccess k' a =>
    have passed : P (passDown (feederId k') a (begin s)) := h.aside (.setBus _) begun
    obtain rfl := Host.Outcome.next.inj run
    dsimp only
    split
    · exact passed
    · exact h.aside (.setPath _) passed
  | readResponse k' r =>
    obtain rfl := Host.Outcome.next.inj run
    dsimp only
    split
    · exact h.aside (.setBus _) begun
    · exact h.aside ((settle_aside _).after (.setPath _)) begun
  | bindWaitExpiry k' =>
    obtain rfl := Host.Outcome.next.inj run
    dsimp only
    split
    · exact h.aside ((settle_aside _).after (bindExpire_aside ..)) begun
    · exact begun
  | encEdge rising =>
    obtain rfl := Host.Outcome.next.inj run
    dsimp only [countEncoder]
    split
    · exact begun
    · split
      · exact h.aside (.setTimer _) begun
      · exact begun
  | pitchEvent =>
    obtain rfl := Host.Outcome.next.inj run
    dsimp only
    split
    · split
      · exact h.pitch _ begun
      · exact begun
    · exact begun
  | syntheticPitchEvent =>
    obtain rfl := Host.Outcome.next.inj run
    dsimp only
    split
    · split
      · exact h.pitch _ begun
      · exact begun
    · exact begun
  | deadlineEvent =>
    obtain rfl := Host.Outcome.next.inj run
    dsimp only
    split
    · split
      · exact h.aside (deadline_aside ..) begun
      · exact begun
    · exact begun
  | lineSample levels =>
    obtain rfl := Host.Outcome.next.inj run
    split
    · exact begun
    · exact h.aside (sampleLines_aside ..) begun
  | holdreqChange active =>
    obtain rfl := Host.Outcome.next.inj run
    dsimp only
    split
    · exact begun
    · exact h.aside ((settle_aside _).after ((holdreqTo_aside ..).after (takeLevel_aside ..))) begun
  | pwrwarnActive =>
    obtain rfl := Host.Outcome.next.inj run
    dsimp only
    split
    · exact begun
    · exact h.aside (settle_aside _) (h.active (h.aside (takeLevel_aside ..) begun))
  | pwrwarnInactive =>
    obtain rfl := Host.Outcome.next.inj run
    dsimp only
    split
    · exact begun
    · have taken := takeLevel_aside inPwrwarn false (begin s)
      exact h.aside (settle_aside _) (h.inactive taken.store (h.aside taken begun))
  | tallyCharacter k' b stop =>
    obtain rfl := Host.Outcome.next.inj run
    dsimp only
    split
    · exact begun
    · split
      · exact h.aside (takeCharacter_aside ..) begun
      · exact h.aside (.setTally _) begun
  | tallyLineIdleSeen k' =>
    obtain rfl := Host.Outcome.next.inj run
    dsimp only
    split
    · exact h.aside (.setTally _) begun
    · exact begun

end Invariable

/-! ## The part before its scan -/

/-- Before the scan nothing is held, in flight or queued (R140, R149, R170), with the book table as it is. -/
structure Unscanned (table : List BookRow) (s : State) : Prop where
  made : s.store.scanMade = false
  job : s.ctl.job = .idle
  active : s.ticket.active = none
  phase : s.store.phase = .recovering
  sectors : s.store.sectors = .const .erased
  op : s.store.op = none
  queue : s.store.queue = []
  records : s.report.queue = []
  same : s.store.table = table

theorem unscanned_of_beforeScan {s : State} (h : BeforeScan s) (made : s.store.scanMade = false) :
    Unscanned s.store.table s := by
  obtain ⟨job, active, phase, sectors, op, queue, records⟩ := h made
  exact ⟨made, job, active, phase, sectors, op, queue, records, rfl⟩

namespace Unscanned

variable {table : List BookRow} {s t : State} (h : Unscanned table s)
include h

theorem beforeScan : BeforeScan s := fun _ => ⟨h.job, h.active, h.phase, h.sectors, h.op, h.queue, h.records⟩

theorem aside (k : Aside s t) : Unscanned table t where
  made := k.store ▸ h.made
  job := (k.still (by rw [h.job]; rfl)).trans h.job
  active := k.active.trans h.active
  phase := k.store ▸ h.phase
  sectors := k.store ▸ h.sectors
  op := k.store ▸ h.op
  queue := k.store ▸ h.queue
  records := by simpa [h.records] using k.level
  same := k.store ▸ h.same

theorem quiesced (b : Bool) : Unscanned table (s.setStore { s.store with quiesced := b }) :=
  ⟨h.made, h.job, h.active, h.phase, h.sectors, h.op, h.queue, h.records, h.same⟩

theorem endRecovery : Machine.endRecovery s = s := by
  refine if_neg ?_
  rintro ⟨-, -, active, -⟩
  have erased : s.store.active = Option.none := by
    rw [Store.active, h.sectors]
    decide
  rw [erased] at active
  cases active

theorem powerActive : Unscanned table (Machine.powerActive s) := by
  have raised := (h.aside (.setLines { s.lines with pwrwarn := true })).aside (raise_aside .powerWarn 0 0 _)
  unfold Machine.powerActive
  dsimp only
  split
  · exact raised
  · exact raised.quiesced true

theorem powerInactive : Unscanned table (Machine.powerInactive s) := by
  have off := h.aside (.setLines { s.lines with pwrwarn := false })
  unfold Machine.powerInactive
  dsimp only
  split
  · rw [(off.quiesced false).endRecovery]
    exact off.quiesced false
  · exact off

theorem chooseIfLeft (before : State) : Unscanned table (Machine.chooseIfLeft before s) := by
  unfold Machine.chooseIfLeft
  split
  · rw [chooseNext_of_not_mayStart]
    · exact h
    · simp [mayStart, h.made]
  · exact h

theorem refusesLoad (ws : List Word) : loadCheck ws s.store ≠ none := by
  have unended : recoveryEnded s.store = false := by simp [recoveryEnded, h.phase]
  unfold loadCheck
  dsimp only
  split
  · simp
  · split
    · simp
    · split
      · simp
      · split
        · simp
        · split
          · simp
          · split
            · simp
            · simp [bookCheck, unended]

/-- Every command is answered and none taken. -/
theorem command (code tag : Byte) : Unscanned table (commandOf code tag s) := by
  have answered : ∀ code r check detail, Unscanned table (answer code tag r check detail s) := fun _ _ _ _ =>
    h.aside (answer_aside ..)
  have job := h.job
  unfold commandOf
  split
  · unfold loadCommand
    rw [if_neg (by simp [job])]
    split
    · exact answered ..
    next accepted => exact absurd accepted (h.refusesLoad _)
  split
  · unfold startCommand
    rw [if_pos (by simp [job])]
    exact answered ..
  split
  · unfold stopCommand
    rw [job]
    exact answered ..
  split
  · unfold holdCommand
    rw [job]
    exact answered ..
  split
  · unfold resumeCommand
    rw [if_pos (by simp [job])]
    exact answered ..
  split
  · unfold abortCommand
    rw [if_neg (by simp [job])]
    exact answered ..
  split
  · unfold closeCommand
    rw [if_pos (by simp [job])]
    exact answered ..
  split
  · unfold spoilCommand
    dsimp only
    rw [if_pos job]
    exact answered ..
  split
  · unfold retireCommand
    dsimp only
    rw [if_neg (by simp [job]), h.phase]
    split
    · exact answered ..
    · exact answered ..
  split
  · exact h.aside ((answer_aside ..).after (.setReport le_rfl))
  split
  · exact h.aside ((answer_aside ..).after (.setReport le_rfl))
  · exact answered ..

theorem pitch (first : List (FaultKind × BitVec 3 × Word)) : Unscanned table (Machine.pitch first s) := by
  have cleared : Unscanned table (clearEncoder s) := h.aside (.setTimer _)
  unfold Machine.pitch
  dsimp only
  rw [cleared.job]
  exact cleared.aside ((raiseAll_aside ..).after (.setTimer _))

end Unscanned

theorem unscanned_invariable (table : List BookRow) : Invariable (Unscanned table) where
  aside k h := h.aside k
  command code tag _ _ h := h.command code tag
  pitch first _ h := h.pitch first
  active h := h.powerActive
  inactive _ h := h.powerInactive.chooseIfLeft _

/-- Before the scan a command that neither resets the part nor scans leaves it so. -/
theorem exec_unscanned {table : List BookRow} {c : Instr} {s t : State} (h : Unscanned table s)
    (noPower : ∀ b cut, c ≠ .powerOnReset b cut) (noWarm : ∀ cut, c ≠ .warmReset cut) (noScan : c ≠ .recoveryScan)
    (run : exec c s = .next t) : Unscanned table t := by
  have begun : Unscanned table (begin s) := h.aside (.setBus _)
  rcases ordinary_or c with hc | ⟨b, cut, rfl⟩ | ⟨cut, rfl⟩ | rfl | ⟨v, rfl⟩ | ⟨v, rfl⟩ | ⟨r, rfl⟩
  · exact (unscanned_invariable table).exec hc h run
  · exact absurd rfl (noPower b cut)
  · exact absurd rfl (noWarm cut)
  · exact absurd rfl noScan
  · rcases appendCompletion_cases run with rfl | ⟨i, n, seq, body, op, -⟩
    · exact begun
    · rw [h.op] at op
      cases op
  · rcases stepCompletion_cases run with rfl | ⟨i, n, seq, body, c, op, -⟩
    · exact begun
    · rw [h.op] at op
      cases op
  · rcases eraseCompletion_cases run with rfl | ⟨i, op, -⟩
    · exact begun
    · rw [h.op] at op
      cases op

end Sys2Proof.Machine
end

section
/-! PROOFS. Why the book table has room (R132): the bound at every moment of a step, and what carries it on. -/

namespace Sys2Proof.Machine
open Sys2Proof.Safety

/-! ## The bound at a moment of a step -/

/-- The moments at which parts of the bound are not there: between two steps all of it is; while the notices of a completed
append are given its request has left the queue; in a store that becomes FAILED requests still wait; and CLOSE asks for its
close appends one after another. -/
inductive Moment where
  | between | noticing | failing | asking
deriving DecidableEq

/-- The append of a RESERVE in flight is that of the head request. -/
def Flies (st : Store) : Prop := ∀ i n seq b d v e p, st.op = some (.append i n seq (.reserve b d v e p)) →
  ∃ j l rest, st.queue = .reservation j b d l :: rest

/-- Behind every reservation stands a close append. -/
def Ahead (queue : List Request) : Prop := ∀ q r rest, queue = q ++ r :: rest → (reserver r).isSome = true →
  rest.any Request.isCloseAppend = true

/-- The bound of R132 at a moment after the scan. -/
structure Books (m : Moment) (s : State) : Prop where
  made : s.store.scanMade = true
  rows : s.store.table.length ≤ 32
  distinct : (s.store.table.map (·.book)).Nodup
  room : ∀ t, s.ticket.active = some t → s.store.table.length + newBooks t s.store 3 ≤ 32
  shared : ∀ t, s.ticket.active = some t → ∀ i j, Booked t i → Booked t j →
    (t.streams.get i).book = (t.streams.get j).book → i = j
  held : s.ctl.job = .idle ↔ s.ticket.active = none
  noJob : s.ticket.active = none → ∀ r ∈ s.store.queue, (∃ b, r = .recoveryClose b) ∨
    ((∃ b, r = .retire b) ∧ ∃ p, s.ticket.waiting = some p ∧ p.kind = .retire)
  job : ∀ t, s.ticket.active = some t → ∀ r ∈ s.store.queue,
    (∃ i d l, r = .reservation i (t.streams.get i).book d l ∧ Booked t i ∧ (streamAt s i).inFlight = true) ∨
      (s.ctl.job = .closing ∧ r.isCloseAppend = true)
  once : (s.store.queue.filterMap reserver).Nodup
  alone : (s.store.queue.filter ofRetire).length ≤ 1
  retiring : ∀ p, s.ticket.waiting = some p → p.kind = .retire → s.ctl.job = .idle
  ahead : m ≠ .asking → s.ctl.job = .closing → Ahead s.store.queue
  recovers : m ≠ .failing → ∀ b, .recoveryClose b ∈ s.store.queue → s.store.phase = .recovering
  failed : m ≠ .failing → ∀ c, s.store.phase = .failed c → s.store.queue = []
  flight : m = .between ∨ m = .asking → Flies s.store

theorem Books.bound {s : State} (h : Books .between s) : BookBound s where
  rows := h.rows
  distinct := h.distinct
  room := h.room
  shared := h.shared
  held := h.held
  noJob none r hr := by
    rcases h.noJob none r hr with ⟨b, rfl⟩ | retires
    · exact .inl ⟨⟨b, rfl⟩, h.recovers (by decide) b hr⟩
    · exact .inr retires
  job := h.job
  once := h.once
  alone := h.alone
  ahead := h.ahead (by decide)
  retiring := h.retiring
  failed := h.failed (by decide)
  flight := h.flight (.inl rfl)
  unscanned unmade := by rw [h.made] at unmade; cases unmade

theorem books_of_bound {s : State} (h : BookBound s) (made : s.store.scanMade = true) : Books .between s where
  made := made
  rows := h.rows
  distinct := h.distinct
  room := h.room
  shared := h.shared
  held := h.held
  noJob none r hr := (h.noJob none r hr).imp_left And.left
  job := h.job
  once := h.once
  alone := h.alone
  ahead _ := h.ahead
  retiring := h.retiring
  recovers _ b hb := by
    cases active : s.ticket.active with
    | none =>
      rcases h.noJob active _ hb with ⟨-, phase⟩ | ⟨⟨b', e⟩, -⟩
      · exact phase
      · cases e
    | some t =>
      rcases h.job t active _ hb with ⟨i, d, l, e, -⟩ | ⟨-, e⟩ <;> cases e
  failed _ := h.failed
  flight _ := h.flight

/-- A bound made for one moment holds at another that asks for no more. -/
theorem Books.at {m n : Moment} {s : State} (h : Books m s) (ahead : n ≠ .asking → s.ctl.job = .closing → Ahead s.store.queue)
    (failing : n ≠ .failing → m ≠ .failing) (flight : n = .between ∨ n = .asking → Flies s.store) : Books n s :=
  { h with
    ahead := ahead
    recovers := fun hn => h.recovers (failing hn)
    failed := fun hn => h.failed (failing hn)
    flight := flight }

/-! ## What carries the bound on -/

theorem row_isNone_iff (st : Store) (b : Word) : (st.row b).isNone = true ↔ b ∉ st.table.map (·.book) := by
  rw [Store.row, Option.isNone_iff_eq_none, List.find?_eq_none]
  simp

theorem newBooks_congr {s t : Store} (books : t.table.map (·.book) = s.table.map (·.book)) (k : Ticket) (i : StreamId) :
    newBooks k t i = newBooks k s i := by
  refine congrArg List.length (List.filter_congr fun j _ => ?_)
  congr 1
  rw [Bool.eq_iff_iff, row_isNone_iff, row_isNone_iff, books]

theorem Ahead.suffix {l k : List Request} (h : Ahead l) (suffix : k <:+ l) : Ahead k := by
  rintro q r rest rfl reserves
  obtain ⟨p, rfl⟩ := suffix
  exact h (p ++ q) r rest (by rw [List.append_assoc]) reserves

/-- The same books, requests lost at most from the queue's front, the same job but for moves among the running states, and
the reservations left still in flight. -/
structure Carried (s t : State) : Prop where
  made : t.store.scanMade = s.store.scanMade
  books : t.store.table.map (·.book) = s.store.table.map (·.book)
  queue : t.store.queue <:+ s.store.queue
  phase : t.store.phase = s.store.phase
  active : t.ticket.active = s.ticket.active
  waiting : t.ticket.waiting.map (·.kind) = s.ticket.waiting.map (·.kind)
  inFlight : ∀ i ∈ t.store.queue.filterMap reserver, (streamAt s i).inFlight = true → (streamAt t i).inFlight = true
  idle : t.ctl.job = .idle ↔ s.ctl.job = .idle
  closing : t.ctl.job = .closing ↔ s.ctl.job = .closing

theorem waiting_kind {s t : State} (h : t.ticket.waiting.map (·.kind) = s.ticket.waiting.map (·.kind)) {k : PendingKind} :
    (∃ p, t.ticket.waiting = some p ∧ p.kind = k) ↔ ∃ p, s.ticket.waiting = some p ∧ p.kind = k := by
  have kinds : ∀ w : Option PendingCommand, (∃ p, w = some p ∧ p.kind = k) ↔ w.map (·.kind) = some k := fun w => by
    cases w <;> simp
  rw [kinds, kinds, h]

theorem Carried.carry {m : Moment} {s t : State} (k : Carried s t) (h : Books m s)
    (flight : m = .between ∨ m = .asking → Flies t.store) : Books m t where
  made := k.made.trans h.made
  rows := by
    have := congrArg List.length k.books
    rw [List.length_map, List.length_map] at this
    exact this ▸ h.rows
  distinct := by rw [k.books]; exact h.distinct
  room u active := by
    have := congrArg List.length k.books
    rw [List.length_map, List.length_map] at this
    rw [this, newBooks_congr k.books]
    exact h.room u (k.active ▸ active)
  shared u active := h.shared u (k.active ▸ active)
  held := by rw [k.idle, k.active]; exact h.held
  noJob none r hr := by
    rw [waiting_kind k.waiting]
    exact h.noJob (k.active ▸ none) r (k.queue.subset hr)
  job u active r hr := by
    rcases h.job u (k.active ▸ active) r (k.queue.subset hr) with ⟨i, d, l, rfl, booked, flying⟩ | ⟨closing, close⟩
    · exact .inl ⟨i, d, l, rfl, booked, k.inFlight i (List.mem_filterMap.2 ⟨_, hr, rfl⟩) flying⟩
    · exact .inr ⟨k.closing.2 closing, close⟩
  once := h.once.sublist (k.queue.sublist.filterMap _)
  alone := le_trans (k.queue.sublist.filter _).length_le h.alone
  retiring p waiting kind := by
    obtain ⟨q, hq, hk⟩ := (waiting_kind k.waiting).1 ⟨p, waiting, kind⟩
    exact k.idle.2 (h.retiring q hq hk)
  ahead hm closing := (h.ahead hm (k.closing.1 closing)).suffix k.queue
  recovers hm b hb := k.phase.trans (h.recovers hm b (k.queue.subset hb))
  failed hm c failed := by
    have empty := h.failed hm c (k.phase ▸ failed)
    have suffix := k.queue
    rw [empty] at suffix
    exact List.suffix_nil.1 suffix
  flight := flight

theorem Alongside.carried {s t : State} (k : Alongside s t) : Carried s t where
  made := by rw [k.store]
  books := by rw [k.store]
  queue := by rw [k.store]
  phase := by rw [k.store]
  active := k.active
  waiting := by rw [k.waiting]
  inFlight i _ flying := (k.inFlight i).trans flying
  idle := k.idle_iff
  closing := k.closing_iff

theorem Books.alongside {m : Moment} {s t : State} (h : Books m s) (k : Alongside s t) : Books m t :=
  k.carried.carry h fun hm => by rw [k.store]; exact h.flight hm

theorem Books.aside {m : Moment} {s t : State} (h : Books m s) (k : Aside s t) : Books m t := h.alongside k.toAlongside

/-- A change of the store that keeps the books, the requests and the phase. -/
theorem Books.setStore {m : Moment} {s : State} {st : Store} (h : Books m s) (made : st.scanMade = s.store.scanMade)
    (books : st.table.map (·.book) = s.store.table.map (·.book)) (queue : st.queue <:+ s.store.queue)
    (phase : st.phase = s.store.phase) (flight : m = .between ∨ m = .asking → Flies st) : Books m (s.setStore st) :=
  Carried.carry (t := s.setStore st) ⟨made, books, queue, phase, rfl, rfl, fun _ _ => id, Iff.rfl, Iff.rfl⟩ h flight

/-! ## The store's own moves -/

theorem Flies.of_none {st : Store} (h : st.op = none) : Flies st := fun i n seq b d v e p op => by
  rw [h] at op
  cases op

theorem Flies.of_eq {s t : Store} (h : Flies s) (op : t.op = s.op) (queue : t.queue = s.queue) : Flies t := by
  unfold Flies
  rw [op, queue]
  exact h

/-- A request at the tail leaves the head's append its request. -/
theorem Flies.append {s t : Store} {r : List Request} (h : Flies s) (op : t.op = s.op) (queue : t.queue = s.queue ++ r) :
    Flies t := by
  intro i n seq b d v e p flying
  obtain ⟨j, l, rest, head⟩ := h i n seq b d v e p (op ▸ flying)
  exact ⟨j, l, rest ++ r, by rw [queue, head]; rfl⟩

/-- With no job's requests in the queue recovery may end. -/
theorem endRecovery_books {m : Moment} {s : State} (h : Books m s) : Books m (endRecovery s) := by
  unfold endRecovery
  split
  next finished =>
    obtain ⟨phase, -, -, none⟩ := finished
    exact { h with
      recovers := fun _ b hb => by
        have := List.any_eq_false.1 none _ hb
        exact absurd rfl this
      failed := fun _ c failed => by cases failed }
  · exact h

theorem quiesced_books {m : Moment} {s : State} (h : Books m s) (b : Bool) :
    Books m (s.setStore { s.store with quiesced := b }) := h.setStore rfl rfl List.suffix_rfl rfl h.flight

theorem powerActive_books {m : Moment} {s : State} (h : Books m s) : Books m (powerActive s) := by
  have raised := (h.aside (.setLines { s.lines with pwrwarn := true })).aside (raise_aside .powerWarn 0 0 _)
  unfold powerActive
  dsimp only
  split
  · exact raised
  · exact quiesced_books raised true

theorem powerInactive_books {m : Moment} {s : State} (h : Books m s) : Books m (powerInactive s) := by
  have off := h.aside (.setLines { s.lines with pwrwarn := false })
  unfold powerInactive
  dsimp only
  split
  · exact endRecovery_books (quiesced_books off false)
  · exact off

/-- A change of the settings in force, the bound given under the new ticket. -/
theorem setSettings_books {m : Moment} {t : Option Ticket} {s : State} (h : Books m (withSettings t s.lines.holdreq s)) :
    Books m (setSettings t s) := by
  have taken : Books m (settingsTaken t s) := by
    unfold settingsTaken
    split
    · exact h.aside (holdreqTo_aside ..)
    · exact h
  rw [setSettings_eq]
  split
  · split
    · exact powerActive_books taken
    · exact powerInactive_books taken
  · exact taken

/-! ## The end of CLOSE -/

/-- In CLOSING with no close append left the queue is empty. -/
theorem Books.closes {m : Moment} {s : State} (h : Books m s) (hm : m ≠ .asking) (closing : s.ctl.job = .closing)
    (left : s.store.queue.any Request.isCloseAppend = false) : s.store.queue = [] := by
  cases active : s.ticket.active with
  | none =>
    have idle := h.held.2 active
    rw [closing] at idle
    cases idle
  | some t =>
    cases queue : s.store.queue with
    | nil => rfl
    | cons r rest =>
      rw [queue, List.any_cons, Bool.or_eq_false_iff] at left
      rcases h.job t active r (queue ▸ List.mem_cons_self) with ⟨i, d, l, rfl, -⟩ | ⟨-, close⟩
      · have := h.ahead hm closing [] _ rest queue rfl
        rw [left.2] at this
        cases this
      · rw [left.1] at close
        cases close

theorem endPending_waiting (r : ResultCode) (d : Word) (s : State) : (endPending r d s).ticket.waiting = none := by
  unfold endPending
  split
  · rfl
  next none => exact none

theorem closeReplied_waiting (s : State) : (closeReplied s).ticket.waiting = none := by
  unfold closeReplied
  split <;> exact endPending_waiting ..

theorem closeEnd_books {m : Moment} {s : State} (h : Books m s) (empty : s.store.queue = []) : Books m (closeEnd s) := by
  rw [closeEnd_eq]
  refine setSettings_books ?_
  generalize hx : withSettings none (jobDropped (closeReplied s)).lines.holdreq (jobDropped (closeReplied s)) = x
  have store : x.store = s.store := by rw [← hx]; exact closeReplied_store s
  have active : x.ticket.active = none := by rw [← hx]; rfl
  have waiting : x.ticket.waiting = none := by rw [← hx]; exact closeReplied_waiting s
  have idle : x.ctl.job = .idle := by rw [← hx]; rfl
  have queue : x.store.queue = [] := by rw [store, empty]
  exact {
    made := by rw [store]; exact h.made
    rows := by rw [store]; exact h.rows
    distinct := by rw [store]; exact h.distinct
    room := fun t e => by rw [active] at e; cases e
    shared := fun t e => by rw [active] at e; cases e
    held := ⟨fun _ => active, fun _ => idle⟩
    noJob := fun _ r hr => by rw [queue] at hr; cases hr
    job := fun t e => by rw [active] at e; cases e
    once := by rw [queue]; exact List.nodup_nil
    alone := by rw [queue]; exact Nat.zero_le _
    retiring := fun p e => by rw [waiting] at e; cases e
    ahead := fun _ closing => by rw [idle] at closing; cases closing
    recovers := fun _ b hb => by rw [queue] at hb; cases hb
    failed := fun _ _ _ => queue
    flight := fun hm => by rw [store]; exact h.flight hm }

theorem closeIfDone_books {m : Moment} {s : State} (h : Books m s) (hm : m ≠ .asking) : Books m (closeIfDone s) := by
  unfold closeIfDone
  split
  · split
    next ends => exact closeEnd_books h (h.closes hm ends.2.1 ends.2.2)
    · exact h
  · exact h

/-! ## The choice of the next operation -/

/-- The body of a RESERVE is that of a reservation. -/
theorem appendBody_reserve {st : Store} {r : Request} {b : Word} {d : Direction} {v : Word} {e : Bool} {p : Option Word}
    (h : appendBody st r = some (.reserve b d v e p)) : ∃ j l, r = .reservation j b d l := by
  cases r with
  | reservation j book dir limit =>
    rw [appendBody] at h
    split at h <;> cases h <;> exact ⟨_, _, rfl⟩
  | closeAppend j book dir drawn =>
    rw [appendBody] at h
    split at h
    · cases h
    · split at h <;> cases h
  | recoveryClose book =>
    rw [appendBody] at h
    split at h <;> cases h
  | retire book => cases h

/-- A choice made step by step: an operation starts, STORE_FAULT is raised, or a close append is answered. -/
theorem chooseFrom_induction {P : State → Prop} {told : State → State}
    (starts : ∀ s st, P s → mayStart s.store = true → Picked s.store st → Flies st → P (s.setStore st))
    (faults : ∀ s, P s → P (raise .storeFault 0 0 s))
    (answers : ∀ s, P s → mayStart s.store = true → P (told (dropHead s))) (n : Nat) {s : State} (h : P s) :
    P (chooseFrom told n s) := by
  induction n generalizing s with
  | zero => exact h
  | succ n ih =>
    unfold chooseFrom
    split
    next may =>
      have free := ((mayStart_iff _).1 may).1
      have erases : ∀ st, Picked s.store st → st.op = none → P (s.setStore (eraseStart st)) := fun st picked none => by
        refine starts s _ h may ⟨?_, picked.chosen.trans (eraseStart_chosen st)⟩ ?_
        · have rest := (eraseStart_picked st).rest
          rw [picked.rest] at rest ⊢
          exact rest
        · cases low : st.lowest .full with
          | none => rw [eraseStart_none low]; exact .of_none none
          | some i => rw [eraseStart_some low]; rintro _ _ _ _ _ _ _ _ ⟨⟩
      split
      next st start =>
        refine starts s st h may (compactionStart_picked start) ?_
        have step : ∃ c, st = startStep c s.store := by
          unfold compactionStart at start
          split at start
          · cases start
            exact ⟨_, rfl⟩
          · split at start
            · split at start <;> cases start
              exact ⟨_, rfl⟩
            · cases start
        obtain ⟨c, rfl⟩ := step
        rw [startStep_eq]
        rintro _ _ _ _ _ _ _ _ op
        simp only [compactionStep, Option.some.injEq] at op
        split at op <;> cases op
      next =>
        unfold chooseAppend
        split
        · exact erases _ (.refl _) free
        next r head =>
          split
          next => exact ih (answers s h may)
          next body written =>
            split
            next st start =>
              refine starts s st h may (appendStart_picked start) ?_
              obtain ⟨rest, queue⟩ := List.head?_eq_some_iff.1 head
              unfold appendStart at start
              split at start
              · split at start <;> cases start
                rintro i n seq b d v e p ⟨⟩
                obtain ⟨j, l, rfl⟩ := appendBody_reserve written
                exact ⟨j, l, rest, queue⟩
              · cases start
            next =>
              split
              · have waits : P (s.setStore (eraseStart { s.store with fullWait := true })) := by
                  refine erases { s.store with fullWait := true } ⟨rfl, ?_⟩ free
                  exact ⟨rfl, rfl, List.suffix_rfl, fun _ => .inl rfl, .inl rfl, fun _ => .rfl⟩
                unfold waitFull
                dsimp only
                split
                · exact waits
                · exact faults _ waits
              · exact erases _ (.refl _) free
    next => exact h

theorem starts_books {m : Moment} {s : State} {st : Store} (h : Books m s) (picked : Picked s.store st) (flies : Flies st) :
    Books m (s.setStore st) := by
  refine h.setStore ?_ ?_ ?_ ?_ fun _ => flies
  · rw [picked.rest]
  · rw [picked.rest]
  · rw [picked.rest]
  · rw [picked.rest]

theorem dropHead_books {m : Moment} {s : State} (h : Books m s) (may : mayStart s.store = true) : Books m (dropHead s) :=
  h.setStore rfl rfl (List.drop_suffix ..) rfl fun _ => .of_none (st := { s.store with queue := _, retried := false })
    ((mayStart_iff _).1 may).1

theorem choose_books {m : Moment} {told : State → State} (tells : ∀ s, Books m s → Books m (told s)) {s : State}
    (h : Books m s) : Books m (choose told s) :=
  chooseFrom_induction (P := Books m) (fun _ _ h _ picked flies => starts_books h picked flies)
    (fun _ h => h.aside (raise_aside ..)) (fun _ h may => tells _ (dropHead_books h may)) _ h

theorem chooseNext_books {m : Moment} {s : State} (h : Books m s) (hm : m ≠ .asking) : Books m (chooseNext s) :=
  choose_books (fun _ k => closeIfDone_books k hm) h

theorem chooseIfLeft_books {m : Moment} (before : State) {s : State} (h : Books m s) (hm : m ≠ .asking) :
    Books m (chooseIfLeft before s) := by
  unfold chooseIfLeft
  split
  · exact chooseNext_books h hm
  · exact h

end Sys2Proof.Machine
end

section
/-! PROOFS. The bound of R132 across requests, draws and the pitch operation. -/

namespace Sys2Proof.Machine
open Sys2Proof.Safety

/-! ## Requests -/

/-- The bound with a job that asks: its ticket, and not in CLOSING. -/
structure Working (t : Ticket) (m : Moment) (s : State) : Prop where
  books : Books m s
  active : s.ticket.active = some t
  asks : s.ctl.job ≠ .closing

theorem Working.alongside {t : Ticket} {m : Moment} {s u : State} (h : Working t m s) (k : Alongside s u) : Working t m u :=
  ⟨h.books.alongside k, k.active.trans h.active, fun closing => h.asks (k.closing_iff.1 closing)⟩

theorem Working.aside {t : Ticket} {m : Moment} {s u : State} (h : Working t m s) (k : Aside s u) : Working t m u :=
  h.alongside k.toAlongside

theorem Stocked.ticket {s u : State} (h : Stocked s u) : u.ticket = s.ticket := by
  cases h with
  | calm => rfl
  | waits => exact raise_ticket ..

/-- A stream's record changed, its reservation still in flight if it was. -/
theorem setStream_books {m : Moment} {s : State} {i : StreamId} {x : StreamState} (h : Books m s)
    (flying : (streamAt s i).inFlight = true → x.inFlight = true) : Books m (setStream i x s) := by
  refine Carried.carry (s := s) ⟨rfl, rfl, List.suffix_rfl, rfl, rfl, rfl, fun j _ was => ?_, Iff.rfl, Iff.rfl⟩ h h.flight
  by_cases same : j = i
  · subst same
    rw [streamAt_setStream_same]
    exact flying was
  · rw [streamAt_setStream_other same]
    exact was

/-- In a job's queue stand reservations of its booked streams alone, while it is not in CLOSING. -/
theorem Working.reserved {t : Ticket} {m : Moment} {s : State} (h : Working t m s) {r : Request} (hr : r ∈ s.store.queue) :
    ∃ i d l, r = .reservation i (t.streams.get i).book d l ∧ Booked t i ∧ (streamAt s i).inFlight = true :=
  (h.books.job t h.active r hr).resolve_right fun k => h.asks k.1

section
variable {t : Ticket} {m : Moment} {s : State} {i : StreamId} (h : Working t m s) (booked : Booked t i)
  (free : (streamAt s i).inFlight = false)
include h booked free

/-- A reservation of a booked stream with none in flight joins the queue. -/
theorem joined_books {x : StreamState} (flying : x.inFlight = true) (d : Direction) (l : Word)
    (accepted : refuses s.store = false) : Books m ((setStream i x s).setStore { s.store with
      queue := s.store.queue ++ [.reservation i (t.streams.get i).book d l] }) := by
  have new : i ∉ s.store.queue.filterMap reserver := fun mem => by
    obtain ⟨r, hr, reserves⟩ := List.mem_filterMap.1 mem
    obtain ⟨j, d, l, rfl, -, was⟩ := h.reserved hr
    cases reserves
    rw [free] at was
    cases was
  have marked := setStream_books (i := i) (x := x) h.books fun _ => flying
  exact {
    made := marked.made
    rows := marked.rows
    distinct := marked.distinct
    room := marked.room
    shared := marked.shared
    held := marked.held
    noJob := fun idle => by cases h.active.symm.trans idle
    job := fun u active r hr => by
      have same : t = u := Option.some.inj (h.active.symm.trans active)
      subst same
      rcases List.mem_append.1 hr with hr | hr
      · exact marked.job t active r hr
      · obtain rfl := List.mem_singleton.1 hr
        refine .inl ⟨i, d, l, rfl, booked, ?_⟩
        exact (congrArg StreamState.inFlight (streamAt_setStream_same i x s)).trans flying
    once := by
      rw [State.setStore_store, List.filterMap_append]
      refine List.Nodup.append h.books.once (List.nodup_singleton i) ?_
      rintro j mem hj
      obtain rfl := List.mem_singleton.1 hj
      exact new mem
    alone := by
      rw [State.setStore_store, List.filter_append, List.length_append]
      exact h.books.alone
    retiring := marked.retiring
    ahead := fun _ closing => absurd closing h.asks
    recovers := fun hm b hb => marked.recovers hm b <| (List.mem_append.1 hb).resolve_right fun e => by
      cases List.mem_singleton.1 e
    failed := fun _ c failed => by
      rw [refuses_failed (st := s.store) failed] at accepted
      cases accepted
    flight := fun hm => (h.books.flight hm).append rfl rfl }

theorem request_working (l : Word) : Working t m (request i (t.streams.get i) l s) := by
  have stocked := stocked_request i (t.streams.get i) l s
  refine ⟨?_, stocked.ticket ▸ h.active, fun closing => h.asks (stocked.closingSame.1 closing)⟩
  cases refusal : refuses s.store with
  | true =>
    rw [request_refused i _ l refusal]
    exact setStream_books h.books fun was => by rw [free] at was; cases was
  | false =>
    rw [request_accepted i _ l refusal]
    exact choose_books (told := id) (fun _ k => k) (joined_books h booked free rfl _ l refusal)

end

/-- A rule that asks for booked streams with no request in flight alone. -/
abbrev Sensible (t : Ticket) (rule : StreamId → StreamState → Option Word) : Prop :=
  ∀ i x l, rule i x = some l → Booked t i ∧ x.inFlight = false

theorem renewalRule_sensible (t : Ticket) : Sensible t (renewalRule t) := by
  intro i x l asks
  unfold renewalRule at asks
  split at asks
  next booked =>
    refine ⟨booked, ?_⟩
    unfold renewalDue at asks
    split at asks
    · split at asks
      next due => exact due.2.1
      · cases asks
    · cases asks
  · cases asks

theorem startRule_sensible (t : Ticket) : Sensible t (startRule t) := by
  intro i x l asks
  unfold startRule at asks
  split at asks
  next due => exact ⟨due.1, due.2.2⟩
  · cases asks

theorem uncoveredRule_sensible (t : Ticket) : Sensible t (uncoveredRule t) := by
  intro i x l asks
  unfold uncoveredRule at asks
  split at asks
  · exact startRule_sensible t i x l asks
  · cases asks

section
variable {t : Ticket} {m : Moment} {s : State}

theorem askBy_working {rule : StreamId → StreamState → Option Word} (sensible : Sensible t rule) (h : Working t m s)
    (i : StreamId) : Working t m (askBy t rule s i) := by
  unfold askBy
  split
  next l asks =>
    obtain ⟨booked, free⟩ := sensible _ _ _ asks
    exact request_working h booked free l
  · exact h

theorem asksBy_working {rule : StreamId → StreamState → Option Word} (sensible : Sensible t rule) (is : List StreamId)
    (h : Working t m s) : Working t m (is.foldl (askBy t rule) s) := by
  induction is generalizing s with
  | nil => exact h
  | cons i is ih => exact ih (askBy_working sensible h i)

theorem drawRequests_working (a : DrawAnswer) (h : Working t m s) : Working t m (drawRequests t a s) := by
  cases a with
  | drawn =>
    change Working t m (drawnRequests t s)
    rw [drawnRequests_eq]
    exact asksBy_working (renewalRule_sensible t) _ h
  | uncovered =>
    change Working t m (uncoveredRequests t s)
    rw [uncoveredRequests_eq]
    exact asksBy_working (uncoveredRule_sensible t) _ h
  | waiting => exact h
  | exhausted => exact h

/-! ## Draws and openings -/

theorem recordDraw_inFlight (v : Word) (x : StreamState) : (recordDraw v x).inFlight = x.inFlight := by
  unfold recordDraw
  split
  · rfl
  · split <;> rfl

theorem drawAll_inFlight (t : Ticket) (u : StreamUnit) (j : StreamId) :
    ((drawAll t u).2.each.get j).inFlight = (u.each.get j).inFlight := by
  unfold drawAll
  by_cases mem : j ∈ t.activeStreams
  · obtain ⟨g, -, each⟩ := drawInto_member t (activeStreams_nodup t) (Four.const none, u) mem
    obtain ⟨-, st, v, n, record⟩ := drawStream_records t.policy (t.streams.get j) (u.each.get j) g
    rw [each, record]
    exact recordDraw_inFlight ..
  · rw [(drawInto_other t t.activeStreams (Four.const none, u) mem).2]

theorem drawForSet_aside (t : Ticket) (s : State) : Aside s (drawForSet t s).2.2 := by
  unfold drawForSet
  split
  · exact .refl s
  · split
    · exact .of_beside ⟨rfl, rfl, rfl, drawAll_inFlight t s.streams⟩ rfl le_rfl rfl rfl
    · exact .refl s
    · exact .refl s
    · exact .refl s

theorem countOpened_aside (s : State) : Aside s (countOpened s) := .setPipe rfl

theorem replaceZero_alongside (e : Entry) (s : State) : Alongside s (replaceZero e s) := .of_eq rfl rfl rfl rfl

theorem freshOpening_working (h : Working t m s) : Working t m (freshOpening t s).2 := by
  have drawn := h.aside (drawForSet_aside t s)
  unfold freshOpening
  dsimp only
  split
  · exact drawRequests_working .drawn (drawn.aside (countOpened_aside _))
  · exact drawn
  · exact (drawRequests_working .uncovered drawn).aside (raise_aside ..)
  · exact drawn.aside (claim_aside ..)

theorem openNew_working (h : Working t m s) : Working t m (openNew t s) := by
  have entries : ∀ {u} es, Working t m u → Working t m (u.setEntries es) := fun es k =>
    k.alongside (.of_eq rfl rfl rfl rfl)
  unfold openNew
  refine entries _ ?_
  unfold opening
  split
  · split
    · exact h.alongside (.of_eq rfl rfl rfl rfl)
    · exact freshOpening_working h
  · exact h

theorem resolvePending_books (h : Books m s) : Books m (resolvePending s) := by
  unfold resolvePending
  split
  next t stamp cs ps active _ =>
    split
    next run =>
      have working : Working t m s := ⟨h, active, by rw [run]; decide⟩
      have drawn := working.aside (drawForSet_aside t s)
      dsimp only
      split
      · refine (drawRequests_working .drawn ?_).books
        exact (drawn.aside (countOpened_aside _)).alongside (replaceZero_alongside ..)
      · exact drawn.books
      · refine ((drawRequests_working .uncovered ?_).aside (raise_aside ..)).books
        exact drawn.aside (blankPending_aside _)
      · exact ((drawn.aside (blankPending_aside _)).aside (claim_aside ..)).books
    · exact h
  · exact h

/-! ## The pitch operation -/

theorem pitchOperation_working (first : List (FaultKind × BitVec 3 × Word)) (h : Working t m s) :
    Working t m (pitchOperation t first s) := by
  unfold pitchOperation
  dsimp only
  refine Working.aside (Working.aside (Working.aside ?_ (Aside.foldl spliceStep_aside plies _)) (drainedNotice_aside _))
    (endOperation_aside _)
  refine openNew_working ((Working.aside ?_ (closingChecks_aside ..)).alongside (shiftAndDecide_alongside ..))
  exact h.alongside (.of_eq rfl rfl rfl rfl)

theorem pitch_books (first : List (FaultKind × BitVec 3 × Word)) (h : Books m s) : Books m (pitch first s) := by
  have cleared : Books m (clearEncoder s) := h.aside (.setTimer _)
  unfold pitch
  dsimp only
  split
  · exact cleared.aside ((raiseAll_aside ..).after (.setTimer _))
  · exact cleared.aside ((raiseAll_aside ..).after (.setTimer _))
  · exact cleared.aside (raiseAll_aside ..)
  next other =>
    split
    next t active =>
      exact ((pitchOperation_working first ⟨cleared, active, other⟩).aside (settle_aside _)).books
    · exact cleared

end

end Sys2Proof.Machine
end

section
/-! PROOFS. The bound of R132 across the commands of the press controller. -/

namespace Sys2Proof.Machine
open Sys2Proof.Safety

/-! ## LOAD -/

/-- What the seventh check of LOAD makes sure of (R146). -/
structure Bookable (t : Ticket) (st : Store) : Prop where
  ended : st.phase ≠ .recovering
  tests : ∀ i, bookTest t st i = none

theorem bookable_of_loadCheck {ws : List Word} {st : Store} (h : loadCheck ws st = none) : Bookable (ticketOf ws) st := by
  have check : bookCheck (ticketOf ws) st = none := by
    unfold loadCheck at h
    dsimp only at h
    split at h
    · cases h
    · split at h
      · cases h
      · split at h
        · cases h
        · split at h
          · cases h
          · split at h
            · cases h
            · split at h
              · cases h
              · exact h
  by_cases unended : recoveryEnded st = false
  · rw [bookCheck, if_pos unended] at check
    cases check
  · rw [bookCheck, if_neg unended] at check
    refine ⟨by simpa [recoveryEnded] using unended, fun i => ?_⟩
    have tests := (ite_eq_iff.1 check).resolve_left fun k => by cases k.2
    have := List.findSome?_eq_none_iff.1 tests.2 i (mem_fours i)
    simpa using this

section
variable {t : Ticket} {st : Store} (h : Bookable t st)
include h

theorem Bookable.unshared {i j : StreamId} (bi : Booked t i) (bj : Booked t j)
    (same : (t.streams.get i).book = (t.streams.get j).book) : ¬i.val < j.val := fun lower => by
  have test := h.tests j
  unfold bookTest at test
  dsimp only at test
  rw [if_neg (by rw [(booked_iff t j).2 bj]; decide), if_pos] at test
  · cases test
  · refine List.any_eq_true.2 ⟨i, mem_fours i, ?_⟩
    rw [(booked_iff t i).2 bi, same]
    simpa using lower

theorem Bookable.shared {i j : StreamId} (bi : Booked t i) (bj : Booked t j)
    (same : (t.streams.get i).book = (t.streams.get j).book) : i = j := by
  have := h.unshared bi bj same
  have := h.unshared bj bi same.symm
  exact Fin.ext (by omega)

/-- A booked stream whose book has no row finds room for it and for those before it. -/
theorem Bookable.fits {i : StreamId} (booked : t.booked i = true) (new : (st.row (t.streams.get i).book).isNone = true) :
    newBooks t st i ≤ 32 - st.table.length := by
  have test := h.tests i
  have none : st.row (t.streams.get i).book = none := by simpa using new
  unfold bookTest at test
  dsimp only at test
  rw [if_neg (by rw [booked]; decide)] at test
  split at test
  · cases test
  · rw [none] at test
    dsimp only at test
    split at test
    · cases test
    next fits => exact Nat.le_of_not_lt fits

theorem Bookable.room (n : Nat) (hn : n < 4) : newBooks t st ⟨n, hn⟩ ≤ 32 - st.table.length := by
  by_cases new : t.booked ⟨n, hn⟩ = true ∧ (st.row (t.streams.get ⟨n, hn⟩).book).isNone = true
  · exact h.fits new.1 new.2
  · have old : ∀ i : StreamId, (t.booked i && (st.row (t.streams.get i).book).isNone) = true → i.val ≠ n := by
      rintro i both rfl
      exact new (by simpa using both)
    induction n with
    | zero =>
      have empty : newBooks t st ⟨0, hn⟩ = 0 := by
        refine List.length_eq_zero_iff.2 (List.filter_eq_nil_iff.2 fun i _ both => ?_)
        rw [Bool.and_assoc, Bool.and_eq_true, decide_eq_true_eq] at both
        exact old i both.2 (Nat.le_zero.1 both.1)
      rw [empty]
      exact Nat.zero_le _
    | succ n ih =>
      have fewer : newBooks t st ⟨n + 1, hn⟩ = newBooks t st ⟨n, by omega⟩ := by
        refine congrArg List.length (List.filter_congr fun i _ => ?_)
        rw [Bool.and_assoc, Bool.and_assoc, Bool.eq_iff_iff]
        simp only [Bool.and_eq_true, decide_eq_true_eq]
        refine and_congr_left fun both => ?_
        have := old i (by simpa using both)
        show i.val ≤ n + 1 ↔ i.val ≤ n
        omega
      rw [fewer]
      by_cases new' : t.booked ⟨n, by omega⟩ = true ∧ (st.row (t.streams.get ⟨n, by omega⟩).book).isNone = true
      · exact h.fits new'.1 new'.2
      · refine ih (by omega) new' ?_
        rintro i both rfl
        exact new' (by simpa using both)

end

/-- With no job, no command pending and recovery over the store's queue is empty. -/
theorem Books.quiet {s : State} (h : Books .between s) (idle : s.ctl.job = .idle) (free : s.ticket.waiting = none)
    (ended : s.store.phase ≠ .recovering) : s.store.queue = [] := by
  refine List.eq_nil_iff_forall_not_mem.2 fun r hr => ?_
  rcases h.noJob (h.held.1 idle) r hr with ⟨b, rfl⟩ | ⟨-, p, waiting, -⟩
  · exact ended (h.recovers (by decide) b hr)
  · rw [free] at waiting
    cases waiting

theorem acceptLoad_books {s : State} (h : Books .between s) (idle : s.ctl.job = .idle) (free : s.ticket.waiting = none)
    (bookable : Bookable (ticketOf s.ticket.staged) s.store) : Books .between (acceptLoad s) := by
  have queue := h.quiet idle free bookable.ended
  unfold acceptLoad
  dsimp only
  refine chooseIfLeft_books _ (setSettings_books ?_) (by decide)
  refine {
    made := h.made
    rows := h.rows
    distinct := h.distinct
    room := fun t e => ?_
    shared := fun t e i j bi bj same => ?_
    held := iff_of_false (fun e => by cases e) fun e => by cases e
    noJob := fun e => by cases e
    job := fun t e r hr => ?_
    once := h.once
    alone := h.alone
    retiring := fun p e => ?_
    ahead := fun _ e => by cases e
    recovers := h.recovers
    failed := h.failed
    flight := h.flight }
  · obtain rfl := Option.some.inj e
    have fits := bookable.room 3 (by decide)
    have rows := h.rows
    change s.store.table.length + newBooks (ticketOf s.ticket.staged) s.store 3 ≤ 32
    change newBooks (ticketOf s.ticket.staged) s.store 3 ≤ _ at fits
    omega
  · obtain rfl := Option.some.inj e
    exact bookable.shared bi bj same
  · have hr : r ∈ s.store.queue := hr
    rw [queue] at hr
    cases hr
  · have e : s.ticket.waiting = some p := e
    rw [free] at e
    cases e

/-! ## START, RESUME and ABORT -/

/-- A change of the job between two states that are neither IDLE nor CLOSING. -/
theorem Books.moved {m : Moment} {s t : State} (h : Books m s) (k : Beside s t)
    (before : s.ctl.job ≠ .idle ∧ s.ctl.job ≠ .closing) (later : t.ctl.job ≠ .idle ∧ t.ctl.job ≠ .closing) : Books m t :=
  Carried.carry (s := s) {
    made := by rw [k.store]
    books := by rw [k.store]
    queue := by rw [k.store]
    phase := by rw [k.store]
    active := k.active
    waiting := by rw [k.waiting]
    inFlight := fun i _ flying => (k.inFlight i).trans flying
    idle := iff_of_false later.1 before.1
    closing := iff_of_false later.2 before.2 } h fun hm => by rw [k.store]; exact h.flight hm

theorem acceptStart_books {s : State} (h : Books .between s) (ready : s.ctl.job = .ready) :
    Books .between (acceptStart s) := by
  have filled : Books .between (clearEncoder ((s.setEntries (List.replicate (gateDistOf s) .blank)).setJob .run)) :=
    h.moved (.of_eq rfl rfl rfl) (by rw [ready]; decide) ⟨by rintro ⟨⟩, by rintro ⟨⟩⟩
  unfold acceptStart
  dsimp only
  refine Books.aside ?_ (holdTest_aside _)
  split
  next t active =>
    rw [startReservations_eq]
    exact (asksBy_working (startRule_sensible t) _ ⟨filled, active, by rintro ⟨⟩⟩).books
  · exact filled

theorem acceptResume_books {s : State} (h : Books .between s) (on : s.ctl.job = .hold ∨ s.ctl.job = .halted) :
    Books .between (acceptResume s) := by
  refine Books.aside (h.moved (t := (clearCauses s).setJob .run) (.of_eq rfl rfl rfl) ?_ ⟨by rintro ⟨⟩, by rintro ⟨⟩⟩) (holdTest_aside _)
  rcases on with e | e <;> rw [e] <;> decide

theorem acceptAbort_books {s : State} (h : Books .between s) (running : s.ctl.job.running = true) :
    Books .between (acceptAbort s) := by
  have voided := (Alongside.foldl abortEntry_alongside (blankPending s).pipe.entries.reverse _).after
    (blankPending_aside s).toAlongside
  exact (h.alongside voided).moved (.of_eq rfl rfl rfl) (voided.runs running) ⟨by rintro ⟨⟩, by rintro ⟨⟩⟩

/-! ## CLOSE -/

theorem changeRow_books (b : Word) {f : BookRow → BookRow} (keeps : ∀ r, (f r).book = r.book) (l : List BookRow) :
    (changeRow b f l).map (·.book) = l.map (·.book) := by
  rw [changeRow, List.map_map]
  refine List.map_congr_left fun r _ => ?_
  simp only [Function.comp]
  split
  · exact keeps r
  · rfl

/-- A close append failed: the books and the kind of the pending command stay. -/
theorem closeFailed_carried (i : StreamId) (book : Word) (s : State) : Carried s (closeFailed i book s) := by
  have books : (tableAfterFailedClose book s.store.table).map (·.book) = s.store.table.map (·.book) :=
    changeRow_books book (f := fun r => { r with empty := false, prior := some r.high }) (fun _ => rfl) _
  unfold closeFailed noteFailedClose
  split
  next p waiting =>
    refine ⟨rfl, books, List.suffix_rfl, rfl, rfl, ?_, fun _ _ => id, Iff.rfl, Iff.rfl⟩
    have waiting : s.ticket.waiting = some p := waiting
    exact (congrArg (Option.map (·.kind)) waiting).symm
  · exact ⟨rfl, books, List.suffix_rfl, rfl, rfl, rfl, fun _ _ => id, Iff.rfl, Iff.rfl⟩

theorem closeFailed_requests (i : StreamId) (book : Word) (s : State) :
    (closeFailed i book s).store.queue = s.store.queue ∧ (closeFailed i book s).store.op = s.store.op := by
  unfold closeFailed
  rw [noteFailedClose_store]
  exact ⟨rfl, rfl⟩

theorem closeFailed_books {m : Moment} {s : State} (h : Books m s) (i : StreamId) (book : Word) :
    Books m (closeFailed i book s) := by
  obtain ⟨queue, op⟩ := closeFailed_requests i book s
  exact (closeFailed_carried i book s).carry h fun hm => (h.flight hm).of_eq op queue

/-- CLOSE asking for its close appends, at most n requests in the store's queue. -/
structure Asking (t : Ticket) (n : Nat) (s : State) : Prop where
  books : Books .asking s
  active : s.ticket.active = some t
  closing : s.ctl.job = .closing
  room : s.store.queue.length ≤ n

theorem Asking.alongside {t : Ticket} {n : Nat} {s u : State} (h : Asking t n s) (k : Alongside s u) : Asking t n u :=
  ⟨h.books.alongside k, k.active.trans h.active, k.closing_iff.2 h.closing, by rw [k.store]; exact h.room⟩

/-- Behind a queue that ends with a close append everything has one behind it. -/
theorem ahead_of_close {r : Request} (close : r.isCloseAppend = true) (l : List Request) : Ahead (l ++ [r]) := by
  intro q x rest split_at reserves
  rcases List.eq_nil_or_concat' rest with rfl | ⟨front, y, rfl⟩
  · have last : r = x := by simpa using congrArg List.getLast? split_at
    subst last
    cases r with
    | reservation => cases close
    | closeAppend => cases reserves
    | recoveryClose => cases reserves
    | retire => cases reserves
  · have last : r = y := by
      have whole : l ++ [r] = (q ++ x :: front) ++ [y] := by rw [split_at, List.append_assoc, List.cons_append]
      simpa only [List.getLast?_concat, Option.some.injEq] using congrArg List.getLast? whole
    subst last
    rw [List.any_append, List.any_cons, close, Bool.true_or, Bool.or_true]

section
variable {t : Ticket} {n : Nat} {s : State} (h : Asking t n s)
include h

/-- A close append joins the queue. -/
theorem Asking.joined (i : StreamId) (book : Word) (dir : Direction) (drawn : Option Word)
    (accepted : refuses s.store = false) :
    Asking t (n + 1) (s.setStore { s.store with queue := s.store.queue ++ [.closeAppend i book dir drawn] }) := by
  refine ⟨{
    made := h.books.made
    rows := h.books.rows
    distinct := h.books.distinct
    room := h.books.room
    shared := h.books.shared
    held := h.books.held
    noJob := fun idle => by cases h.active.symm.trans idle
    job := fun u active r hr => ?_
    once := ?_
    alone := ?_
    retiring := h.books.retiring
    ahead := fun hm => absurd rfl hm
    recovers := fun hm b hb => h.books.recovers hm b <| (List.mem_append.1 hb).resolve_right fun e => by
      cases List.mem_singleton.1 e
    failed := fun _ c failed => ?_
    flight := fun hm => (h.books.flight hm).append rfl rfl }, h.active, h.closing, ?_⟩
  · rcases List.mem_append.1 hr with hr | hr
    · exact h.books.job u active r hr
    · obtain rfl := List.mem_singleton.1 hr
      exact .inr ⟨h.closing, rfl⟩
  · rw [State.setStore_store, List.filterMap_append]
    rw [show [Request.closeAppend i book dir drawn].filterMap reserver = [] from rfl, List.append_nil]
    exact h.books.once
  · rw [State.setStore_store, List.filter_append, List.length_append]
    exact h.books.alone
  · rw [refuses_failed (st := s.store) failed] at accepted
    cases accepted
  · rw [State.setStore_store, List.length_append]
    exact Nat.succ_le_succ h.room

theorem Asking.chosen : Asking t n (choose id s) := by
  have stocked := stocked_chooseFrom (s.store.queue.length + 1) s
  have chosen := choose_chosen (told := id) (fun s => .refl s.store) s
  exact ⟨choose_books (fun _ k => k) h.books, stocked.ticket ▸ h.active, stocked.closingSame.2 h.closing,
    le_trans chosen.queue.length_le h.room⟩

/-- A close append asked for, not the last. -/
theorem askClose_asking (i : StreamId) : Asking t (n + 1) (askClose t id i s) := by
  unfold askClose
  dsimp only
  split
  · have carried := closeFailed_carried i (t.streams.get i).book s
    refine ⟨closeFailed_books h.books i _, carried.active.trans h.active, carried.closing.2 h.closing, ?_⟩
    rw [id, (closeFailed_requests i _ s).1]
    exact le_trans h.room (Nat.le_succ n)
  next accepted => exact (h.joined i _ _ _ (by simpa using accepted)).chosen

/-- The last close append asked for: everything queued has a close append behind it, and CLOSE may end. -/
theorem askClose_books (room : n < 40) (i : StreamId) : Books .between (askClose t closeIfDone i s) := by
  unfold askClose
  dsimp only
  split
  next refused =>
    have empty : s.store.queue = [] := by
      have few : ¬Config.requestCapacity ≤ s.store.queue.length := Nat.not_le.2 (lt_of_le_of_lt h.room room)
      unfold refuses at refused
      rw [decide_eq_false few, Bool.false_or] at refused
      split at refused
      next c failed => exact h.books.failed (by decide) c failed
      · cases refused
    have failed := closeFailed_books h.books i (t.streams.get i).book
    refine closeIfDone_books (failed.at (fun _ _ => ?_) (fun _ => by decide) fun _ => failed.flight (.inr rfl)) (by decide)
    rw [(closeFailed_requests i _ s).1, empty]
    intro q r rest split_at
    cases q <;> cases split_at
  next accepted =>
    have joined := (h.joined i (t.streams.get i).book (t.streams.get i).dir
      (if (streamAt s i).drawn then some (streamAt s i).lastDrawn else none) (by simpa using accepted)).books
    refine choose_books (fun _ k => closeIfDone_books k (by decide)) ?_
    exact joined.at (fun _ _ => ahead_of_close rfl _) (fun _ => by decide) fun _ => joined.flight (.inr rfl)

end

theorem askCloses_books {t : Ticket} {l : List StreamId} {n : Nat} {s : State} (h : Asking t n s) (room : n + l.length < 40)
    (all : l = [] → ∀ i, ¬Booked t i) : Books .between (askCloses t l s) := by
  induction l generalizing n s with
  | nil =>
    refine closeIfDone_books (h.books.at (fun _ _ q r rest split_at reserves => ?_) (fun _ => by decide)
      fun _ => h.books.flight (.inr rfl)) (by decide)
    rcases h.books.job t h.active r (split_at ▸ List.mem_append_right q List.mem_cons_self) with
      ⟨i, d, l, -, booked, -⟩ | ⟨-, close⟩
    · exact absurd booked (all rfl i)
    · cases r with
      | closeAppend => cases reserves
      | reservation => cases close
      | recoveryClose => cases close
      | retire => cases close
  | cons i l ih =>
    cases l with
    | nil => exact askClose_books h (by simp at room; omega) i
    | cons j rest =>
      refine ih (askClose_asking h i) (by simp at room ⊢; omega) fun e => by cases e

theorem acceptClose_books (tag : Byte) {s : State} (h : Books .between s) (ready : s.ctl.job = .ready) :
    Books .between (acceptClose tag s) := by
  cases active : s.ticket.active with
  | none =>
    have idle := h.held.2 active
    rw [ready] at idle
    cases idle
  | some t =>
    have working : Working t .between s := ⟨h, active, by rw [ready]; decide⟩
    have few : s.store.queue.length ≤ 4 := by
      have reserves : ∀ r ∈ s.store.queue, (reserver r).isSome = true := fun r hr => by
        obtain ⟨i, d, l, rfl, -⟩ := working.reserved hr
        rfl
      have length : (s.store.queue.filterMap reserver).length = s.store.queue.length :=
        List.filterMap_length_eq_length.2 reserves
      rw [← length]
      exact le_trans h.once.length_le_card (by decide)
    unfold acceptClose
    dsimp only
    refine chooseIfLeft_books _ ?_ (by decide)
    generalize hx : State.setTicket (answer 7 tag .pending 0 0 (s.setJob .closing)) _ = x
    have asking : Asking t 4 x := by
      subst hx
      refine ⟨{
        made := h.made
        rows := h.rows
        distinct := h.distinct
        room := h.room
        shared := h.shared
        held := iff_of_false (fun e => by cases e) fun e => by cases active.symm.trans e
        noJob := fun idle => by cases active.symm.trans idle
        job := fun u e r hr => ?_
        once := h.once
        alone := h.alone
        retiring := fun p e kind => ?_
        ahead := fun hm => absurd rfl hm
        recovers := fun _ => h.recovers (by decide)
        failed := fun _ => h.failed (by decide)
        flight := fun _ => h.flight (.inl rfl) }, active, rfl, few⟩
      · have same : t = u := Option.some.inj (active.symm.trans e)
        subst same
        exact .inl (working.reserved hr)
      · cases e
        cases kind
    have remakes := asking.alongside (closeRemakes_alongside x)
    rw [remakes.active]
    dsimp only
    refine askCloses_books (remakes.alongside (pushSummaries_alongside t _)) ?_ fun none i booked => ?_
    · have : (fours.filter t.booked).length ≤ 4 := List.length_filter_le ..
      omega
    · have := List.filter_eq_nil_iff.1 none i (mem_fours i)
      exact this ((booked_iff t i).2 booked)

/-! ## RETIRE -/

theorem acceptRetire_books (tag : Byte) {s : State} (h : Books .between s) (idle : s.ctl.job = .idle)
    (free : s.ticket.waiting = none) (service : s.store.phase = .inService) : Books .between (acceptRetire tag s) := by
  have queue := h.quiet idle free (by rw [service]; decide)
  have active := h.held.1 idle
  unfold acceptRetire
  dsimp only
  refine choose_books (told := id) (fun _ k => k) ?_
  rw [State.setTicket_store, show (answer 9 tag .pending 0 0 s).store = s.store from rfl, queue]
  refine {
    made := h.made
    rows := h.rows
    distinct := h.distinct
    room := h.room
    shared := h.shared
    held := h.held
    noJob := fun _ r hr => .inr ⟨⟨s.ticket.arg1, List.mem_singleton.1 hr⟩, _, rfl, rfl⟩
    job := fun t e => by cases active.symm.trans e
    once := List.nodup_nil
    alone := le_rfl
    retiring := fun _ _ _ => idle
    ahead := fun _ closing => by cases idle.symm.trans closing
    recovers := fun _ b hb => by cases List.mem_singleton.1 hb
    failed := fun _ c failed => by cases service.symm.trans failed
    flight := fun hm => (h.flight hm).append (t := { s.store with queue := _ }) (r := [.retire s.ticket.arg1]) rfl ?_ }
  rw [queue]

/-! ## Every command -/

theorem command_books (code tag : Byte) {s : State} (free : s.ticket.waiting = none) (h : Books .between s) :
    Books .between (commandOf code tag s) := by
  have answered : ∀ {u} code r check detail, Books .between u → Books .between (answer code tag r check detail u) :=
    fun _ _ _ _ k => k.aside (answer_aside ..)
  have settled : ∀ {u}, Books .between u → Books .between (settle u) := fun k => k.aside (settle_aside _)
  unfold commandOf
  split
  · unfold loadCommand
    split
    · exact answered _ _ _ _ h
    next idle =>
      split
      · exact answered _ _ _ _ h
      next accepted => exact answered _ _ _ _ (acceptLoad_books h (not_not.1 idle) free (bookable_of_loadCheck accepted))
  split
  · unfold startCommand
    split
    · exact answered _ _ _ _ h
    next ready =>
      split
      · exact answered _ _ _ _ h
      · split
        · exact answered _ _ _ _ h
        · split
          · exact answered _ _ _ _ h
          · exact answered _ _ _ _ (acceptStart_books h (not_not.1 ready))
  split
  · have cleared : Books .between (clearCauses s) := h.aside (.setCtl rfl)
    unfold stopCommand
    split
    next run => exact settled (answered _ _ _ _ (h.aside (enterDrain_aside (run_running run))))
    next hold =>
      exact settled (answered _ _ _ _ (cleared.aside (enterDrain_aside (s := clearCauses s)
        (by rw [show (clearCauses s).ctl.job = s.ctl.job from rfl, hold]; rfl))))
    next halted =>
      exact settled (answered _ _ _ _ (cleared.aside (enterDrain_aside (s := clearCauses s)
        (by rw [show (clearCauses s).ctl.job = s.ctl.job from rfl, halted]; rfl))))
    · exact answered _ _ _ _ h
    · exact answered _ _ _ _ h
  split
  · unfold holdCommand
    split
    next run =>
      have flagged : Books .between (s.setCtl { s.ctl with command := true }) := h.aside (.setCtl rfl)
      exact settled (answered _ _ _ _ (flagged.aside (enterHold_aside (s := s.setCtl { s.ctl with command := true })
        (run_running run))))
    · exact answered _ _ _ _ h
    · exact answered _ _ _ _ h
  split
  · unfold resumeCommand
    split
    · exact answered _ _ _ _ h
    next on =>
      split
      · exact answered _ _ _ _ h
      · split
        · exact answered _ _ _ _ h
        · exact answered _ _ _ _ (acceptResume_books h (by tauto))
  split
  · unfold abortCommand
    split
    next on =>
      refine settled (answered _ _ _ _ (acceptAbort_books h ?_))
      rcases on with e | e | e <;> rw [e] <;> rfl
    · exact answered _ _ _ _ h
  split
  · unfold closeCommand
    split
    · exact answered _ _ _ _ h
    next ready =>
      split
      · exact answered _ _ _ _ h
      · exact acceptClose_books tag h (not_not.1 ready)
  split
  · unfold spoilCommand
    dsimp only
    split
    · exact answered _ _ _ _ h
    · split
      · exact answered _ _ _ _ h
      · split
        · exact settled (answered _ _ _ _ (h.aside ((raise_aside ..).after (markAt_aside ..))))
        · exact answered _ _ _ _ h
  split
  · unfold retireCommand
    dsimp only
    split
    · exact answered _ _ _ _ h
    next idle =>
      split
      · exact answered _ _ _ _ h
      · cases phase : s.store.phase with
        | recovering =>
          rw [if_pos rfl]
          exact answered _ _ _ _ h
        | failed c =>
          rw [if_pos rfl]
          exact answered _ _ _ _ h
        | inService =>
          rw [if_neg (by decide)]
          split
          · exact answered _ _ _ _ h
          · split
            · exact answered _ _ _ _ h
            · split
              · exact answered _ _ _ _ h
              · split
                · exact answered _ _ _ _ h
                · exact acceptRetire_books tag h (not_not.1 idle) free phase
  split
  · exact h.aside ((answer_aside ..).after (.setReport le_rfl))
  split
  · exact h.aside ((answer_aside ..).after (.setReport le_rfl))
  · exact answered _ _ _ _ h

theorem books_invariable : Invariable (Books .between) where
  aside k h := h.aside k
  command code tag _ free h := command_books code tag free h
  pitch first _ h := pitch_books first h
  active h := powerActive_books h
  inactive _ h := chooseIfLeft_books _ (powerInactive_books h) (by decide)

end Sys2Proof.Machine
end

section
/-! PROOFS. The bound of R132 across the store's completions, its failure, the scan and the resets. -/

namespace Sys2Proof.Machine
open Sys2Proof.Safety

/-! ## The books a job would add -/

/-- The booked streams of a ticket whose books are not among these. -/
def newStreams (t : Ticket) (books : List Word) : Finset StreamId :=
  Finset.univ.filter fun i => t.booked i = true ∧ (t.streams.get i).book ∉ books

theorem newBooks_eq (t : Ticket) (st : Store) : newBooks t st 3 = (newStreams t (st.table.map (·.book))).card := by
  have nodup : fours.Nodup := by decide
  have members : newStreams t (st.table.map (·.book)) =
      (fours.filter fun i => decide (i.val ≤ (3 : StreamId).val) && t.booked i &&
        (st.row (t.streams.get i).book).isNone).toFinset := by
    ext i
    have low : i.val ≤ 3 := Nat.le_of_lt_succ i.isLt
    rw [newStreams, Finset.mem_filter, List.mem_toFinset, List.mem_filter, Bool.and_eq_true, row_isNone_iff]
    simp [mem_fours, low]
  rw [members, List.toFinset_card_of_nodup (nodup.filter _), newBooks]

/-- A book added to the table is one fewer to add. -/
theorem newStreams_cons {t : Ticket} {books : List Word} {i : StreamId} (booked : Booked t i)
    (fresh : (t.streams.get i).book ∉ books) :
    (newStreams t ((t.streams.get i).book :: books)).card < (newStreams t books).card := by
  refine Finset.card_lt_card (Finset.ssubset_iff_of_subset ?_ |>.2 ⟨i, ?_, ?_⟩)
  · intro j hj
    simp only [newStreams, Finset.mem_filter, List.mem_cons, not_or] at hj ⊢
    exact ⟨hj.1, hj.2.1, hj.2.2.2⟩
  · simp [newStreams, (booked_iff t i).2 booked, fresh]
  · simp [newStreams]

/-- A book removed is at most one more to add, no two streams having it. -/
theorem newStreams_erase {t : Ticket} (books : List Word) (b : Word)
    (shared : ∀ i j, Booked t i → Booked t j → (t.streams.get i).book = (t.streams.get j).book → i = j) :
    (newStreams t (books.filter (· != b))).card ≤ (newStreams t books).card + 1 := by
  have covers : newStreams t (books.filter (· != b)) ⊆ newStreams t books ∪
      Finset.univ.filter fun i => t.booked i = true ∧ (t.streams.get i).book = b := by
    intro i hi
    simp only [newStreams, Finset.mem_filter, Finset.mem_union, List.mem_filter, bne_iff_ne, Finset.mem_univ, true_and]
      at hi ⊢
    tauto
  have one : (Finset.univ.filter fun i => t.booked i = true ∧ (t.streams.get i).book = b).card ≤ 1 := by
    refine Finset.card_le_one.2 fun i hi j hj => ?_
    simp only [Finset.mem_filter, Finset.mem_univ, true_and] at hi hj
    exact shared i j ((booked_iff t i).1 hi.1) ((booked_iff t j).1 hj.1) (hi.2.trans hj.2.symm)
  exact (Finset.card_le_card covers).trans ((Finset.card_union_le ..).trans (Nat.add_le_add_left one _))

theorem newStreams_congr {t : Ticket} {a b : List Word} (same : ∀ x, x ∈ a ↔ x ∈ b) : newStreams t a = newStreams t b := by
  unfold newStreams
  exact Finset.filter_congr fun i _ => by rw [same]

/-! ## The table after a completed append -/

theorem insertRow_perm (x : BookRow) (t : List BookRow) : (insertRow x t).Perm (x :: t) := by
  induction t with
  | nil => exact .refl _
  | cons y t ih =>
    rw [insertRow]
    split
    · exact .refl _
    · exact (ih.cons y).trans (.swap x y t)

theorem any_book_iff (t : List BookRow) (b : Word) : t.any (fun r => r.book == b) = true ↔ b ∈ t.map (·.book) := by
  simp [List.any_eq_true]

theorem filter_books (t : List BookRow) (b : Word) :
    (t.filter fun r => r.book != b).map (·.book) = (t.map (·.book)).filter (· != b) := by
  rw [List.filter_map]
  rfl

/-- The bound with another table, its rows few and distinct, and room for the books the job would add. -/
theorem Books.withTable {m : Moment} {s : State} (h : Books m s) {table : List BookRow} (rows : table.length ≤ 32)
    (distinct : (table.map (·.book)).Nodup)
    (room : ∀ t, s.ticket.active = some t → table.length + (newStreams t (table.map (·.book))).card ≤ 32) :
    Books m (s.setStore { s.store with table }) :=
  { h with
    rows := rows
    distinct := distinct
    room := fun t active => by
      rw [newBooks_eq]
      exact room t active
    flight := fun hm => (h.flight hm).of_eq (t := { s.store with table }) rfl rfl }

theorem Books.sameBooks {m : Moment} {s : State} (h : Books m s) {table : List BookRow}
    (books : table.map (·.book) = s.store.table.map (·.book)) : Books m (s.setStore { s.store with table }) :=
  h.setStore rfl books List.suffix_rfl rfl fun hm => (h.flight hm).of_eq rfl rfl

/-- An append in flight that verifies: a row is added for a book of the job alone. -/
theorem tableAfter_books {s : State} (h : Books .between s) {i : SectorId} {n : Nat} {seq : Word} {body : EntryBody}
    (op : s.store.op = some (.append i n seq body)) :
    Books .between (s.setStore { s.store with table := tableAfter body s.store.table }) := by
  cases body with
  | header g => exact h.sameBooks rfl
  | copy b d high opened e p => exact h.sameBooks rfl
  | close b d v e => exact h.sameBooks (changeRow_books b (f := fun r => { r with
      high := v, prior := some v, opened := false, empty := e }) (fun _ => rfl) _)
  | retire b =>
    refine h.withTable (le_trans (List.length_filter_le ..) h.rows) ?_ fun t active => ?_
    · rw [tableAfter, filter_books]
      exact h.distinct.filter _
    · have room := h.room t active
      rw [newBooks_eq] at room
      rw [tableAfter, filter_books]
      by_cases known : b ∈ s.store.table.map (·.book)
      · have fewer : (s.store.table.filter fun r => r.book != b).length < s.store.table.length := by
          refine List.length_filter_lt_length_iff_exists.2 ?_
          obtain ⟨r, hr, rfl⟩ := List.mem_map.1 known
          exact ⟨r, hr, by simp⟩
        have more := newStreams_erase (t := t) (s.store.table.map (·.book)) b (h.shared t active)
        omega
      · have same : newStreams t ((s.store.table.map (·.book)).filter (· != b)) = newStreams t (s.store.table.map (·.book)) :=
          newStreams_congr fun x => by
            rw [List.mem_filter, bne_iff_ne]
            exact ⟨And.left, fun hx => ⟨hx, fun e => known (e ▸ hx)⟩⟩
        have := List.length_filter_le (fun r : BookRow => r.book != b) s.store.table
        rw [same]
        omega
  | reserve b d v e p =>
    rw [tableAfter]
    split
    · exact h.sameBooks (changeRow_books b (f := fun r => { r with high := v, opened := true }) (fun _ => rfl) _)
    next unknown =>
      have fresh : b ∉ s.store.table.map (·.book) := fun mem => unknown ((any_book_iff _ _).2 mem)
      have perm := insertRow_perm { book := b, dir := d, high := v, opened := true, empty := true, prior := none } s.store.table
      have books := perm.map (·.book)
      obtain ⟨j, l, rest, queue⟩ := h.flight (.inl rfl) _ _ _ _ _ _ _ _ op
      have head : Request.reservation j b d l ∈ s.store.queue := queue ▸ List.mem_cons_self
      have added : ∀ t, s.ticket.active = some t → s.store.table.length + 1 +
          (newStreams t (b :: s.store.table.map (·.book))).card ≤ 32 := fun t active => by
        rcases h.job t active _ head with ⟨k, d', l', e, booked, -⟩ | ⟨-, close⟩
        · cases e
          have room := h.room t active
          rw [newBooks_eq] at room
          have fewer := newStreams_cons booked fresh
          omega
        · cases close
      have jobbed : ∃ t, s.ticket.active = some t := by
        cases active : s.ticket.active with
        | some t => exact ⟨t, rfl⟩
        | none =>
          rcases h.noJob active _ head with ⟨c, e⟩ | ⟨⟨c, e⟩, -⟩ <;> cases e
      obtain ⟨t, active⟩ := jobbed
      refine h.withTable ?_ ?_ fun u hu => ?_
      · have := added t active
        rw [perm.length_eq, List.length_cons]
        omega
      · rw [books.nodup_iff]
        exact List.nodup_cons.2 ⟨fresh, h.distinct⟩
      · have := added u hu
        rw [newStreams_congr (b := b :: s.store.table.map (·.book)) fun x => books.mem_iff, perm.length_eq, List.length_cons]
        exact this

/-! ## Notices -/

/-- What the queue does not hold when a request has left it: another reservation of its stream, another RETIRE. -/
structure Departed (r : Request) (queue : List Request) : Prop where
  stream : ∀ i, reserver r = some i → i ∉ queue.filterMap reserver
  retire : ofRetire r = true → ∀ q ∈ queue, ofRetire q = false

theorem Books.departed {m : Moment} {s : State} (h : Books m s) {r : Request} {rest : List Request}
    (queue : s.store.queue = r :: rest) : Departed r rest := by
  refine ⟨fun i reserves => ?_, fun retires q hq => ?_⟩
  · have once := h.once
    rw [queue, List.filterMap_cons_some reserves] at once
    exact (List.nodup_cons.1 once).1
  · have alone := h.alone
    rw [queue, List.filter_cons_of_pos retires, List.length_cons] at alone
    have empty : rest.filter ofRetire = [] := List.length_eq_zero_iff.1 (by omega)
    simpa using List.filter_eq_nil_iff.1 empty q hq

section
variable {m : Moment} {s : State} (h : Books m s)
include h

/-- A reservation's flag cleared once its request has left the queue. -/
theorem Books.setStreamLeft {i : StreamId} (left : i ∉ s.store.queue.filterMap reserver) (x : StreamState) :
    Books m (setStream i x s) := by
  refine Carried.carry (s := s) ⟨rfl, rfl, List.suffix_rfl, rfl, rfl, rfl, fun j hj was => ?_, Iff.rfl, Iff.rfl⟩ h h.flight
  have other : j ≠ i := fun same => left (same ▸ hj)
  rw [streamAt_setStream_other other]
  exact was

theorem streamCompleted_books {i : StreamId} (left : i ∉ s.store.queue.filterMap reserver) :
    Books m (streamCompleted i s) := by
  have limited := h.setStreamLeft left { streamAt s i with limit := some (streamAt s i).requested, inFlight := false }
  unfold streamCompleted
  dsimp only
  split
  next t active =>
    refine resolvePending_books ?_
    split
    · exact limited
    next asks =>
      rw [testRenewal_eq]
      exact (askBy_working (renewalRule_sensible t) ⟨limited, active, asks⟩ i).books
  · exact limited

theorem streamFailed_books {i : StreamId} (left : i ∉ s.store.queue.filterMap reserver) : Books m (streamFailed i s) :=
  resolvePending_books (h.setStreamLeft left _)

/-- The pending RETIRE answered, its request out of the queue. -/
theorem endPending_books (left : ∀ q ∈ s.store.queue, ofRetire q = false) (r : ResultCode) (d : Word) :
    Books m (endPending r d s) := by
  unfold endPending
  split
  · exact { h with
      noJob := fun idle q hq => by
        rcases h.noJob idle q hq with close | ⟨⟨b, rfl⟩, -⟩
        · exact .inl close
        · have := left _ hq
          cases this
      retiring := fun p e => by cases e }
  · exact h

theorem completionNotice_books (hm : m ≠ .asking) {r : Request} (left : Departed r s.store.queue) :
    Books m (completionNotice r s) := by
  cases r with
  | reservation i b d l => exact streamCompleted_books h (left.stream i rfl)
  | closeAppend i b d v => exact closeIfDone_books h hm
  | recoveryClose b => exact h
  | retire b => exact endPending_books h (left.retire rfl) _ _

theorem failureNotice_books (hm : m ≠ .asking) {r : Request} (left : Departed r s.store.queue) :
    Books m (failureNotice r s) := by
  cases r with
  | reservation i b d l => exact streamFailed_books h (left.stream i rfl)
  | closeAppend i b d v => exact closeIfDone_books (closeFailed_books h i b) hm
  | recoveryClose b => exact h
  | retire b => exact endPending_books h (left.retire rfl) _ _

end

/-! ## The store FAILED -/

/-- A FAILED store with its requests removed. -/
theorem Books.emptied {s : State} (h : Books .failing s) (queue : s.store.queue = []) (op : s.store.op = none) :
    Books .between s :=
  { h with
    ahead := fun _ => h.ahead (by decide)
    recovers := fun _ b hb => by rw [queue] at hb; cases hb
    failed := fun _ _ _ => queue
    flight := fun _ => .of_none op }

theorem removeAll_books (rs : List Request) {s : State} {c : FailCause} (failed : s.store.phase = .failed c)
    (awake : s.store.quiesced = false) (queue : s.store.queue = rs) (h : Books .failing s) :
    Books .failing (removeAll rs s) := by
  have waived : ¬(Moment.failing = .between ∨ Moment.failing = .asking) := by decide
  induction rs generalizing s with
  | nil => exact h.setStore rfl rfl List.nil_suffix rfl fun hm => absurd hm waived
  | cons r rs ih =>
    have popped : Books .failing (s.setStore { s.store with queue := rs }) :=
      h.setStore rfl rfl (queue ▸ List.suffix_cons r rs) rfl fun hm => absurd hm waived
    have noticed := failureNotice_books popped (by decide) (h.departed queue)
    have table := failureNotice_tableOnly r (s := s.setStore { s.store with queue := rs }) failed awake
    rw [removeAll]
    generalize failureNotice r (s.setStore { s.store with queue := rs }) = u at noticed table
    unfold TableOnly at table
    exact ih (by rw [table]; exact failed) (by rw [table]; exact awake) (by rw [table]; rfl) noticed

theorem becomeFailed_books (c : FailCause) {s : State} (h : Books .between s) (op : s.store.op = none) :
    Books .between (becomeFailed c s) := by
  have failing : Books .failing (s.setStore { s.store with phase := .failed c, quiesced := false, retried := false }) :=
    { h with
      ahead := fun _ => h.ahead (by decide)
      recovers := fun hm => absurd rfl hm
      failed := fun hm => absurd rfl hm
      flight := fun hm => by rcases hm with hm | hm <;> cases hm }
  have removed := (removeAll_books s.store.queue (c := c)
    (s := s.setStore { s.store with phase := .failed c, quiesced := false, retried := false }) rfl rfl rfl failing).aside
      (raise_aside .storeFault 0 0 _)
  have store := becomeFailed_store c s
  exact Books.emptied (s := becomeFailed c s) removed (by rw [store]) (by rw [store]; exact op)

/-! ## Completions -/

theorem finishOperation_books (seq : Word) {s : State} (h : Books .noticing s) : Books .between (finishOperation seq s) := by
  have freed : Books .between (s.setStore { s.store with op := none }) :=
    Books.at (m := .noticing) (h.setStore rfl rfl List.suffix_rfl rfl fun hm => by rcases hm with hm | hm <;> cases hm)
      (fun _ => h.ahead (by decide)) (fun _ => by decide) fun _ => .of_none rfl
  unfold finishOperation
  dsimp only
  refine Books.aside ?_ (settle_aside _)
  split
  · exact becomeFailed_books _ freed rfl
  · exact chooseNext_books (endRecovery_books freed) (by decide)

theorem finishErase_books (r : EraseResult) {s : State} (h : Books .between s) (op : s.store.op = none) :
    Books .between (finishErase r s) := by
  unfold finishErase
  refine Books.aside ?_ (settle_aside _)
  split
  · exact becomeFailed_books _ h op
  · exact chooseNext_books (endRecovery_books h) (by decide)

theorem Books.noticing {s : State} (h : Books .between s) : Books .noticing s :=
  h.at (fun _ => h.ahead (by decide)) (fun _ => by decide) fun hm => by rcases hm with hm | hm <;> cases hm

theorem popRequest_books {s : State} (h : Books .noticing s) : Books .noticing (popRequest s) :=
  h.setStore rfl rfl (List.drop_suffix ..) rfl fun hm => by rcases hm with hm | hm <;> cases hm

theorem appendVerified_books {s : State} (h : Books .between s) {i : SectorId} {n : Nat} {seq : Word} {body : EntryBody}
    (op : s.store.op = some (.append i n seq body)) (v : Bool) : Books .noticing (appendVerified body v s) := by
  have departs : ∀ {u : State}, Books .noticing u → u.store.queue = s.store.queue → ∀ r, s.store.queue.head? = some r →
      Departed r (popRequest u).store.queue := fun {u} k same r head => by
    obtain ⟨rest, queue⟩ := List.head?_eq_some_iff.1 head
    have left := k.departed (same.trans queue)
    have popped : (popRequest u).store.queue = rest := by
      change u.store.queue.drop 1 = rest
      rw [same, queue]
      rfl
    rw [popped]
    exact left
  unfold appendVerified
  split
  · have tabled := (tableAfter_books h op).noticing
    have popped := popRequest_books tabled
    unfold appendDone
    dsimp only
    split
    next r head => exact completionNotice_books popped (by decide) (departs tabled rfl r head)
    · exact popped
  · split
    · have popped := popRequest_books h.noticing
      unfold appendFailed
      dsimp only
      refine Books.aside ?_ (raise_aside ..)
      split
      next r head => exact failureNotice_books popped (by decide) (departs h.noticing rfl r head)
      · exact popped
    · exact h.noticing.setStore rfl rfl List.suffix_rfl rfl fun hm => by rcases hm with hm | hm <;> cases hm

theorem writeSlot_books {m : Moment} {i : SectorId} {n : Nat} {x : Slot} {s : State} (h : Books m s) :
    Books m (writeSlot i n x s) := h.setStore rfl rfl List.suffix_rfl rfl fun hm => (h.flight hm).of_eq rfl rfl

theorem stepVerified_books {s : State} (h : Books .between s) (c : Compaction) (body : EntryBody) (v : Bool) :
    Books .noticing (s.setStore (stepVerified c body v s.store)) := by
  obtain ⟨sectors, compaction, fullWait, rest⟩ := stepVerified_rest c body v s.store
  rw [rest]
  exact h.noticing.setStore rfl rfl List.suffix_rfl rfl fun hm => by rcases hm with hm | hm <;> cases hm

theorem eraseVerified_books {s : State} (h : Books .between s) (i : SectorId) (r : EraseResult) :
    Books .between (s.setStore { eraseVerified i r s.store with op := none }) := by
  cases r <;> exact h.setStore rfl rfl List.suffix_rfl rfl fun _ => .of_none rfl

/-! ## The scan and the resets -/

/-- The part before its scan, its table small and in order. -/
theorem Unscanned.bound {table : List BookRow} {s : State} (h : Unscanned table s) (rows : table.length ≤ 32)
    (distinct : (table.map (·.book)).Nodup) : BookBound s where
  rows := by rw [h.same]; exact rows
  distinct := by rw [h.same]; exact distinct
  room t e := by cases h.active.symm.trans e
  shared t e := by cases h.active.symm.trans e
  held := ⟨fun _ => h.active, fun _ => h.job⟩
  noJob _ r hr := by rw [h.queue] at hr; cases hr
  job t e := by cases h.active.symm.trans e
  once := by rw [h.queue]; exact List.nodup_nil
  alone := by rw [h.queue]; exact Nat.zero_le _
  ahead e := by cases h.job.symm.trans e
  retiring _ _ _ := h.job
  failed c e := by cases h.phase.symm.trans e
  flight := Flies.of_none h.op
  unscanned := h.beforeScan

theorem resetTo_unscanned (b : Byte) {r : Report} (cut : Cut) (s : State) (records : r.queue = []) :
    Unscanned [] (resetTo b r cut s) := ⟨rfl, rfl, rfl, rfl, rfl, rfl, rfl, records, rfl⟩

theorem scanTable_distinct (a : Four Sector) : ((scanTable a).map (·.book)).Nodup :=
  List.pairwise_map.2 ((scanTable_of a).rising.imp fun lower same => by rw [same] at lower; exact lt_irrefl _ lower)

theorem recoverBook_still (s : State) (r : BookRow) :
    (recoverBook s r).ctl.job = .idle ↔ s.ctl.job = .idle := by
  have pushed := (pushRecord_alongside (.recovery r.book r.high) s).idle_iff
  unfold recoverBook
  dsimp only
  split <;> exact pushed

theorem recoverBook_active (s : State) (r : BookRow) : (recoverBook s r).ticket.active = s.ticket.active := by
  have pushed := (pushRecord_alongside (.recovery r.book r.high) s).active
  unfold recoverBook
  dsimp only
  split <;> exact pushed

theorem booksRecovered_job (s : State) : ((booksRecovered s).ctl.job = .idle ↔ s.ctl.job = .idle) ∧
    (booksRecovered s).ticket.active = s.ticket.active := by
  unfold booksRecovered
  generalize (scanned s.store).table.filter (·.opened) = rows
  have each : ∀ u : State, ((rows.foldl recoverBook u).ctl.job = .idle ↔ u.ctl.job = .idle) ∧
      (rows.foldl recoverBook u).ticket.active = u.ticket.active := by
    induction rows with
    | nil => exact fun u => ⟨Iff.rfl, rfl⟩
    | cons r rows ih =>
      intro u
      obtain ⟨job, active⟩ := ih (recoverBook u r)
      exact ⟨job.trans (recoverBook_still u r), active.trans (recoverBook_active u r)⟩
  exact each _

theorem scan_books {table : List BookRow} {s : State} (h : Unscanned table s) (fits : (scanTable s.store.array).length ≤ 32) :
    Books .between (scan s) := by
  have works : ∀ c, (scanned s.store).phase ≠ .failed c := fun c failed => by cases h.phase.symm.trans failed
  have store : (booksRecovered s).store = { scanned s.store with
      queue := s.store.queue ++ List.take (40 - s.store.queue.length)
        (((scanned s.store).table.filter (·.opened)).map fun r => Request.recoveryClose r.book) } :=
    (foldl_recoverBook ((scanned s.store).table.filter (·.opened)) (s := s.setStore (scanned s.store)) works).1
  obtain ⟨still, active⟩ := booksRecovered_job s
  have active := active.trans h.active
  have idle := still.2 h.job
  have op : (booksRecovered s).store.op = none := by rw [store]; exact h.op
  have closes : ∀ r ∈ (booksRecovered s).store.queue, ∃ b, r = .recoveryClose b := fun r hr => by
    rw [store] at hr
    dsimp only at hr
    rw [h.queue, List.nil_append] at hr
    obtain ⟨x, -, rfl⟩ := List.mem_map.1 (List.mem_of_mem_take hr)
    exact ⟨_, rfl⟩
  have bound : Books .between (booksRecovered s) := {
    made := by rw [store]; rfl
    rows := by rw [store]; exact fits
    distinct := by rw [store]; exact scanTable_distinct _
    room := fun t e => by cases active.symm.trans e
    shared := fun t e => by cases active.symm.trans e
    held := ⟨fun _ => active, fun _ => idle⟩
    noJob := fun _ r hr => .inl (closes r hr)
    job := fun t e => by cases active.symm.trans e
    once := by
      have none : (booksRecovered s).store.queue.filterMap reserver = [] :=
        List.filterMap_eq_nil_iff.2 fun r hr => by obtain ⟨b, rfl⟩ := closes r hr; rfl
      rw [none]
      exact List.nodup_nil
    alone := by
      have none : (booksRecovered s).store.queue.filter ofRetire = [] :=
        List.filter_eq_nil_iff.2 fun r hr => by obtain ⟨b, rfl⟩ := closes r hr; exact Bool.false_ne_true
      rw [none]
      exact Nat.zero_le _
    retiring := fun _ _ _ => idle
    ahead := fun _ e => by cases idle.symm.trans e
    recovers := fun _ _ _ => by rw [store]; exact h.phase
    failed := fun _ c failed => absurd (by rw [store] at failed; exact failed) (works c)
    flight := fun _ => .of_none op }
  rw [scan_eq]
  split
  · exact becomeFailed_books _ bound op
  · exact chooseNext_books (endRecovery_books bound) (by decide)

/-! ## Every step -/

theorem quiet_unscanned {s : State} (h : BookBound s) (made : s.store.scanMade = false) :
    Unscanned s.store.table (begin s) := (unscanned_of_beforeScan h.unscanned made).aside (.setBus _)

/-- Every command keeps the bound, the scan where it fits. -/
theorem exec_bookBound {c : Instr} {s t : State} (h : BookBound s)
    (fits : c = .recoveryScan → (scanTable s.store.array).length ≤ 32) (run : exec c s = .next t) : BookBound t := by
  have whole : ∀ made : s.store.scanMade = true, Books .between s := fun made => books_of_bound h made
  have begun : ∀ made : s.store.scanMade = true, Books .between (begin s) := fun made => (whole made).aside (.setBus _)
  by_cases reset : (∃ b cut, c = .powerOnReset b cut) ∨ ∃ cut, c = .warmReset cut
  · rcases reset with ⟨b, cut, rfl⟩ | ⟨cut, rfl⟩
    · cases run
      exact (resetTo_unscanned _ cut _ rfl).bound (Nat.zero_le _) List.nodup_nil
    · cases run
      exact (resetTo_unscanned _ cut _ rfl).bound (Nat.zero_le _) List.nodup_nil
  have noPower : ∀ b cut, c ≠ .powerOnReset b cut := fun b cut e => reset (.inl ⟨b, cut, e⟩)
  have noWarm : ∀ cut, c ≠ .warmReset cut := fun cut e => reset (.inr ⟨cut, e⟩)
  cases made : s.store.scanMade with
  | false =>
    by_cases scans : c = .recoveryScan
    · subst scans
      have asleep := quiet_unscanned h made
      obtain rfl := Host.Outcome.next.inj run
      dsimp only
      split
      · exact asleep.bound h.rows h.distinct
      · exact (scan_books asleep (fits rfl)).bound
    · exact (exec_unscanned (unscanned_of_beforeScan h.unscanned made) noPower noWarm scans run).bound h.rows h.distinct
  | true =>
    refine Books.bound ?_
    rcases ordinary_or c with hc | ⟨b, cut, rfl⟩ | ⟨cut, rfl⟩ | rfl | ⟨v, rfl⟩ | ⟨v, rfl⟩ | ⟨r, rfl⟩
    · exact books_invariable.exec hc (whole made) run
    · exact absurd rfl (noPower b cut)
    · exact absurd rfl (noWarm cut)
    · rw [exec_recoveryScan, if_pos (by rw [made, Bool.or_true])] at run
      obtain rfl := Host.Outcome.next.inj run
      exact begun made
    · rcases appendCompletion_cases run with rfl | ⟨i, n, seq, body, op, rfl⟩
      · exact begun made
      · exact finishOperation_books _ (appendVerified_books (writeSlot_books (begun made)) op v)
    · rcases stepCompletion_cases run with rfl | ⟨i, n, seq, body, c, -, -, rfl⟩
      · exact begun made
      · exact finishOperation_books _ (stepVerified_books (writeSlot_books (begun made)) c body v)
    · rcases eraseCompletion_cases run with rfl | ⟨i, -, rfl⟩
      · exact begun made
      · exact finishErase_books _ (eraseVerified_books (begun made) i r) rfl

end Sys2Proof.Machine
end

section
/-! PROOFS. Why the disposition queue has room (R175): the levels, and what keeps them outside a pitch operation. -/

namespace Sys2Proof.Machine
open Sys2Proof.Safety

/-! ## The levels after the scan -/

/-- The bound of R175 after the scan, with the entries and the remake list it rests on. -/
structure Levels (s : State) : Prop where
  made : s.store.scanMade = true
  distance : ∀ t, s.ticket.active = some t → t.gateDist ≤ 78
  run : s.ctl.job = .run → s.report.queue.length < 48
  total : s.ctl.job.running = true → s.report.queue.length + setCount s ≤ 126
  level : s.report.queue.length ≤ 126
  length : s.ctl.job.running = true → s.pipe.entries.length ≤ 78
  remakes : s.spoil.remakes.length ≤ 32

theorem Levels.bound {s : State} (h : Levels s) : QueueBound s where
  distance := h.distance
  run := h.run
  running := h.total
  level := h.level
  unscanned unmade := by rw [h.made] at unmade; cases unmade

theorem levels_of_bound {s : State} (h : QueueBound s) (shape : PipelineShape s) (sizes : Sizes s)
    (made : s.store.scanMade = true) : Levels s where
  made := made
  distance := h.distance
  run := h.run
  total := h.running
  level := h.level
  length running := by
    rw [shape.running running]
    unfold gateDistOf
    cases active : s.ticket.active with
    | none => exact Nat.zero_le _
    | some t => exact h.distance t active
  remakes := sizes.remakes

/-- Neither the records nor the sets nor the entries nor the remake list grow, RUN is entered only under the high-water
level, and a job ends or stays. -/
structure Lowers (s t : State) : Prop where
  made : t.store.scanMade = s.store.scanMade
  active : t.ticket.active = s.ticket.active ∨ t.ticket.active = none
  running : t.ctl.job.running = true → s.ctl.job.running = true
  run : t.ctl.job = .run → s.ctl.job = .run ∨ t.report.queue.length < 48
  level : t.report.queue.length ≤ s.report.queue.length
  sets : setCount t ≤ setCount s
  length : t.pipe.entries.length ≤ s.pipe.entries.length
  remakes : t.spoil.remakes.length ≤ s.spoil.remakes.length

theorem Lowers.keep {s t : State} (k : Lowers s t) (h : Levels s) : Levels t where
  made := k.made.trans h.made
  distance t active := by
    rcases k.active with same | none
    · exact h.distance t (same ▸ active)
    · rw [none] at active
      cases active
  run e := by
    rcases k.run e with run | low
    · exact lt_of_le_of_lt k.level (h.run run)
    · exact low
  total running := le_trans (Nat.add_le_add k.level k.sets) (h.total (k.running running))
  level := le_trans k.level h.level
  length running := le_trans k.length (h.length (k.running running))
  remakes := le_trans k.remakes h.remakes

theorem Aside.lowers {s t : State} (k : Aside s t) : Lowers s t where
  made := by rw [k.store]
  active := .inl k.active
  running := k.running
  run := k.run
  level := k.level
  sets := k.sets
  length := k.length
  remakes := by rw [k.remakes]

section
variable {s : State} (h : Levels s)
include h

theorem Levels.aside {t : State} (k : Aside s t) : Levels t := k.lowers.keep h

/-- A change of blocks the levels do not look at. -/
theorem Levels.of_eq {t : State} (made : t.store.scanMade = s.store.scanMade) (active : t.ticket.active = s.ticket.active)
    (job : t.ctl.job = s.ctl.job) (report : t.report = s.report) (pipe : t.pipe = s.pipe) (spoil : t.spoil = s.spoil) :
    Levels t :=
  Lowers.keep (s := s) {
    made := made
    active := .inl active
    running := fun r => job ▸ r
    run := fun r => .inl (job ▸ r)
    level := by rw [report]
    sets := by rw [setCount, pipe]; exact le_rfl
    length := by rw [pipe]
    remakes := by rw [spoil] } h

theorem Levels.setStore {st : Store} (made : st.scanMade = s.store.scanMade) : Levels (s.setStore st) :=
  h.of_eq made rfl rfl rfl rfl rfl

theorem Levels.setStream (i : StreamId) (x : StreamState) : Levels (Machine.setStream i x s) :=
  h.of_eq rfl rfl rfl rfl rfl rfl

/-! ## The store's moves and the end of CLOSE -/

theorem endRecovery_levels : Levels (endRecovery s) := by
  unfold endRecovery
  split
  · exact h.setStore rfl
  · exact h

theorem powerActive_levels : Levels (powerActive s) := by
  have raised := (h.aside (.setLines { s.lines with pwrwarn := true })).aside (raise_aside .powerWarn 0 0 _)
  unfold powerActive
  dsimp only
  split
  · exact raised
  · exact raised.setStore rfl

end

theorem powerInactive_levels {s : State} (h : Levels s) : Levels (powerInactive s) := by
  have off := h.aside (.setLines { s.lines with pwrwarn := false })
  unfold powerInactive
  dsimp only
  split
  · exact endRecovery_levels (off.setStore rfl)
  · exact off

theorem setSettings_levels {t : Option Ticket} {s : State} (h : Levels (withSettings t s.lines.holdreq s)) :
    Levels (setSettings t s) := by
  have taken : Levels (settingsTaken t s) := by
    unfold settingsTaken
    split
    · exact h.aside (holdreqTo_aside ..)
    · exact h
  rw [setSettings_eq]
  split
  · split
    · exact powerActive_levels taken
    · exact powerInactive_levels taken
  · exact taken

theorem closeReplied_spoil (s : State) : (closeReplied s).spoil = s.spoil := by
  have replied : ∀ r d, (endPending r d s).spoil = s.spoil := fun r d => by
    unfold endPending
    split <;> rfl
  unfold closeReplied
  split <;> exact replied ..

theorem closeEnd_levels {s : State} (h : Levels s) : Levels (closeEnd s) := by
  rw [closeEnd_eq]
  refine setSettings_levels (Lowers.keep (s := s) ?_ h)
  have store := closeReplied_store s
  have report := closeReplied_report s
  have spoil := closeReplied_spoil s
  exact {
    made := congrArg Store.scanMade store
    active := .inr rfl
    running := fun e => by cases e
    run := fun e => by cases e
    level := (congrArg (fun r : Report => r.queue.length) report).le
    sets := Nat.zero_le _
    length := Nat.zero_le _
    remakes := (congrArg (fun x : SpoilUnit => x.remakes.length) spoil).le }

theorem closeIfDone_levels {s : State} (h : Levels s) : Levels (closeIfDone s) := by
  unfold closeIfDone
  split
  · split
    · exact closeEnd_levels h
    · exact h
  · exact h

theorem choose_levels {told : State → State} (tells : ∀ s, Levels s → Levels (told s)) {s : State} (h : Levels s) :
    Levels (choose told s) :=
  chooseFrom_induction (P := Levels) (fun _ _ h _ picked _ => h.setStore (by rw [picked.rest]))
    (fun _ h => h.aside (raise_aside ..)) (fun _ h _ => tells _ (h.setStore rfl)) _ h

theorem chooseNext_levels {s : State} (h : Levels s) : Levels (chooseNext s) := choose_levels (fun _ => closeIfDone_levels) h

theorem chooseIfLeft_levels (before : State) {s : State} (h : Levels s) : Levels (chooseIfLeft before s) := by
  unfold chooseIfLeft
  split
  · exact chooseNext_levels h
  · exact h

theorem joinQueue_levels (r : Request) {s : State} (h : Levels s) : Levels (joinQueue r s) :=
  choose_levels (told := id) (fun _ k => k) (h.setStore rfl)

/-! ## Requests and PENDING entries -/

section
variable {s : State} (h : Levels s)
include h

theorem request_levels (i : StreamId) (d : StreamDesc) (l : Word) : Levels (request i d l s) := by
  unfold request
  dsimp only
  split
  · exact h.setStream ..
  · exact joinQueue_levels _ (h.setStream ..)

theorem askBy_levels (t : Ticket) (rule : StreamId → StreamState → Option Word) (i : StreamId) :
    Levels (askBy t rule s i) := by
  unfold askBy
  split
  · exact request_levels h ..
  · exact h

end

theorem asksBy_levels (t : Ticket) (rule : StreamId → StreamState → Option Word) (is : List StreamId) {s : State}
    (h : Levels s) : Levels (is.foldl (askBy t rule) s) := by
  induction is generalizing s with
  | nil => exact h
  | cons i is ih => exact ih (askBy_levels h t rule i)

theorem drawRequests_levels (t : Ticket) (a : DrawAnswer) {s : State} (h : Levels s) : Levels (drawRequests t a s) := by
  cases a with
  | drawn =>
    change Levels (drawnRequests t s)
    rw [drawnRequests_eq]
    exact asksBy_levels _ _ _ h
  | uncovered =>
    change Levels (uncoveredRequests t s)
    rw [uncoveredRequests_eq]
    exact asksBy_levels _ _ _ h
  | waiting => exact h
  | exhausted => exact h

/-- Under the high-water level the entries may all be sets. -/
theorem Levels.withEntries {s : State} (h : Levels s) (low : s.report.queue.length < 48) {es : List Entry}
    (short : es.length ≤ 78) : Levels (s.setEntries es) :=
  { h with
    total := fun _ => by
      have := setCount_le_length (s.setEntries es)
      have : (s.setEntries es).pipe.entries.length = es.length := rfl
      show s.report.queue.length + setCount (s.setEntries es) ≤ 126
      omega
    length := fun _ => short }

theorem resolvePending_levels {s : State} (h : Levels s) : Levels (resolvePending s) := by
  unfold resolvePending
  split
  next t stamp cs ps active _ =>
    split
    next run =>
      have drawn := drawForSet_aside t s
      have low : (countOpened (drawForSet t s).2.2).report.queue.length < 48 := lt_of_le_of_lt drawn.level (h.run run)
      have short : (countOpened (drawForSet t s).2.2).pipe.entries.length ≤ 78 :=
        le_trans drawn.length (h.length (run_running run))
      have left := h.aside drawn
      dsimp only
      split
      · refine drawRequests_levels t .drawn (Levels.withEntries (left.aside (countOpened_aside _)) low ?_)
        rw [List.length_modify]
        exact short
      · exact left
      · exact (drawRequests_levels t .uncovered (left.aside (blankPending_aside _))).aside (raise_aside ..)
      · exact (left.aside (blankPending_aside _)).aside (claim_aside ..)
    · exact h
  · exact h

/-! ## Notices, completions and the store FAILED -/

section
variable {s : State} (h : Levels s)
include h

theorem streamCompleted_levels (i : StreamId) : Levels (streamCompleted i s) := by
  unfold streamCompleted
  dsimp only
  split
  · refine resolvePending_levels ?_
    split
    · exact h.setStream ..
    · rw [testRenewal_eq]
      exact askBy_levels (h.setStream ..) ..
  · exact h.setStream ..

theorem endPending_levels (r : ResultCode) (d : Word) : Levels (endPending r d s) := by
  unfold endPending
  split
  · exact h.of_eq rfl rfl rfl rfl rfl rfl
  · exact h

theorem closeFailed_levels (i : StreamId) (book : Word) : Levels (closeFailed i book s) := by
  unfold closeFailed noteFailedClose
  split
  · exact h.of_eq rfl rfl rfl rfl rfl rfl
  · exact h.setStore rfl

theorem completionNotice_levels (r : Request) : Levels (completionNotice r s) := by
  cases r with
  | reservation i b d l => exact streamCompleted_levels h i
  | closeAppend i b d v => exact closeIfDone_levels h
  | recoveryClose b => exact h
  | retire b => exact endPending_levels h ..

theorem failureNotice_levels (r : Request) : Levels (failureNotice r s) := by
  cases r with
  | reservation i b d l => exact resolvePending_levels (h.setStream ..)
  | closeAppend i b d v => exact closeIfDone_levels (closeFailed_levels h i b)
  | recoveryClose b => exact h
  | retire b => exact endPending_levels h ..

end

theorem removeAll_levels (rs : List Request) {s : State} (h : Levels s) : Levels (removeAll rs s) := by
  induction rs generalizing s with
  | nil => exact h.setStore rfl
  | cons r rs ih =>
    have popped : Levels (s.setStore { s.store with queue := rs }) := h.setStore rfl
    exact ih (failureNotice_levels popped r)

theorem becomeFailed_levels (c : FailCause) {s : State} (h : Levels s) : Levels (becomeFailed c s) :=
  (removeAll_levels _ (h.setStore (st := { s.store with phase := .failed c, quiesced := false, retried := false }) rfl)).aside
    (raise_aside ..)

theorem appendVerified_levels (body : EntryBody) (v : Bool) {s : State} (h : Levels s) :
    Levels (appendVerified body v s) := by
  unfold appendVerified
  split
  · unfold appendDone
    have done : Levels (popRequest (s.setStore { s.store with table := tableAfter body s.store.table })) :=
      h.of_eq rfl rfl rfl rfl rfl rfl
    dsimp only
    split
    · exact completionNotice_levels done _
    · exact done
  · split
    · unfold appendFailed
      have popped : Levels (popRequest s) := h.setStore rfl
      dsimp only
      refine Levels.aside ?_ (raise_aside ..)
      split
      · exact failureNotice_levels popped _
      · exact popped
    · exact h.setStore rfl

theorem finishOperation_levels (seq : Word) {s : State} (h : Levels s) : Levels (finishOperation seq s) := by
  unfold finishOperation
  dsimp only
  refine Levels.aside ?_ (settle_aside _)
  split
  · exact becomeFailed_levels _ (h.setStore rfl)
  · exact chooseNext_levels (endRecovery_levels (h.setStore rfl))

theorem finishErase_levels (r : EraseResult) {s : State} (h : Levels s) : Levels (finishErase r s) := by
  unfold finishErase
  refine Levels.aside ?_ (settle_aside _)
  split
  · exact becomeFailed_levels _ h
  · exact chooseNext_levels (endRecovery_levels h)

end Sys2Proof.Machine
end

section
/-! PROOFS. Why the disposition queue has room (R175): the pitch operation, the commands, the scan; the sizes kept by every
step (O6). -/

namespace Sys2Proof.Machine
open Sys2Proof.Safety

/-! ## Within a pitch operation -/

/-- What the later stages of a pitch operation leave: the operation, the job, the records, the kinds of the entries and the
claims made so far. -/
structure Within (s t : State) : Prop where
  operation : t.ctl.inOperation = s.ctl.inOperation
  job : t.ctl.job = s.ctl.job
  records : t.report.queue = s.report.queue
  kinds : kinds t = kinds s
  made : t.store.scanMade = s.store.scanMade
  active : t.ticket.active = s.ticket.active
  claims : ∀ c ∈ s.ctl.claims, c ∈ t.ctl.claims

namespace Within

variable {s t u : State}

theorem refl (s : State) : Within s s := ⟨rfl, rfl, rfl, rfl, rfl, rfl, fun _ h => h⟩

theorem after (k : Within t u) (h : Within s t) : Within s u :=
  ⟨k.operation.trans h.operation, k.job.trans h.job, k.records.trans h.records, k.kinds.trans h.kinds,
    k.made.trans h.made, k.active.trans h.active, fun c hc => k.claims c (h.claims c hc)⟩

theorem of_eq (ctl : t.ctl = s.ctl) (records : t.report.queue = s.report.queue) (same : Machine.kinds t = Machine.kinds s)
    (made : t.store.scanMade = s.store.scanMade) (active : t.ticket.active = s.ticket.active) : Within s t :=
  ⟨by rw [ctl], by rw [ctl], records, same, made, active, fun c hc => by rw [ctl]; exact hc⟩

theorem inside (h : Within s t) (hi : s.ctl.inOperation = true) : t.ctl.inOperation = true := h.operation.trans hi

end Within

/-! ## Requests leave the scan's mark -/

theorem joinQueue_scanMade (r : Request) (s : State) : (joinQueue r s).store.scanMade = s.store.scanMade :=
  chooseFrom_induction (P := fun u => u.store.scanMade = s.store.scanMade) (told := id)
    (fun _ _ same _ picked _ => by
      rw [State.setStore_store, picked.rest]
      exact same)
    (fun _ same => by rw [raise_store]; exact same) (fun _ same _ => same) _
    (s := s.setStore { s.store with queue := s.store.queue ++ [r] }) rfl

theorem askBy_scanMade (t : Ticket) (rule : StreamId → StreamState → Option Word) (s : State) (i : StreamId) :
    (askBy t rule s i).store.scanMade = s.store.scanMade := by
  unfold askBy request
  dsimp only
  split
  · split
    · rfl
    · exact joinQueue_scanMade ..
  · rfl

theorem asksBy_scanMade (t : Ticket) (rule : StreamId → StreamState → Option Word) (is : List StreamId) (s : State) :
    (is.foldl (askBy t rule) s).store.scanMade = s.store.scanMade := by
  induction is generalizing s with
  | nil => rfl
  | cons i is ih => exact (ih _).trans (askBy_scanMade t rule s i)

theorem drawRequests_scanMade (t : Ticket) (a : DrawAnswer) (s : State) :
    (drawRequests t a s).store.scanMade = s.store.scanMade := by
  cases a with
  | drawn =>
    change (drawnRequests t s).store.scanMade = _
    rw [drawnRequests_eq]
    exact asksBy_scanMade ..
  | uncovered =>
    change (uncoveredRequests t s).store.scanMade = _
    rw [uncoveredRequests_eq]
    exact asksBy_scanMade ..
  | waiting => rfl
  | exhausted => rfl

theorem drawRequests_stocked (t : Ticket) (a : DrawAnswer) (s : State) : Stocked s (drawRequests t a s) := by
  cases a with
  | drawn => exact drawnRequests_stocked t s
  | uncovered => exact uncoveredRequests_stocked t s
  | waiting => exact .refl s
  | exhausted => exact .refl s

section
variable {s : State} (hi : s.ctl.inOperation = true)
include hi

theorem claim_within (c : Claim) : Within s (claim c s) := by
  unfold claim
  rw [if_pos hi]
  exact ⟨rfl, rfl, rfl, rfl, rfl, rfl, fun _ hc => List.mem_append_left _ hc⟩

theorem raise_within (kind : FaultKind) (ply : BitVec 3) (serial : Word) : Within s (raise kind ply serial s) := by
  rw [raise_inside hi]
  exact ⟨rfl, rfl, rfl, rfl, rfl, rfl, fun _ hc => List.mem_append_left _ hc⟩

theorem Stocked.within {u : State} (h : Stocked s u) (made : u.store.scanMade = s.store.scanMade) : Within s u := by
  cases h with
  | calm => exact .of_eq rfl rfl rfl made rfl
  | waits =>
    have raised := raise_within hi .storeFault 0 0
    exact Within.after (t := raise .storeFault 0 0 s) (.of_eq rfl rfl rfl (made.trans raised.made.symm) rfl) raised

theorem drawRequests_within (t : Ticket) (a : DrawAnswer) : Within s (drawRequests t a s) :=
  Stocked.within hi (drawRequests_stocked t a s) (drawRequests_scanMade t a s)

theorem freshOpening_within (t : Ticket) : Within s (freshOpening t s).2 := by
  have drawn : Within s (drawForSet t s).2.2 := by
    unfold drawForSet
    split
    · exact .refl s
    · split
      · exact .of_eq rfl rfl rfl rfl rfl
      · exact .refl s
      · exact .refl s
      · exact .refl s
  have inside := drawn.inside hi
  have asked : ∀ a, Within s (drawRequests t a (drawForSet t s).2.2) := fun a =>
    (drawRequests_within inside t a).after drawn
  unfold freshOpening
  dsimp only
  split
  · have counted : Within s (countOpened (drawForSet t s).2.2) := Within.after (t := (drawForSet t s).2.2) (.of_eq rfl rfl rfl rfl rfl) drawn
    exact (drawRequests_within (counted.inside hi) t .drawn).after counted
  · exact drawn
  · exact (raise_within ((asked .uncovered).inside hi) ..).after (asked .uncovered)
  · exact (claim_within inside _).after drawn

theorem opening_within (t : Ticket) : Within s (opening t s).2 := by
  unfold opening
  split
  · split
    · exact .of_eq rfl rfl rfl rfl rfl
    · exact freshOpening_within hi t
  · exact .refl s

theorem drainedNotice_within : Within s (drainedNotice s) := by
  unfold drainedNotice
  split
  · exact claim_within hi _
  · exact .refl s

end

theorem spliceStep_within (s : State) (k : Ply) : Within s (spliceStep s k) := by
  unfold spliceStep
  dsimp only
  split
  · split
    · exact .refl s
    · exact .of_eq rfl rfl (map_modify_kinds fun e _ => mark_isSetEntry _ _ e) rfl rfl
  · exact .refl s

theorem spliceSteps_within (l : List Ply) (s : State) : Within s (l.foldl spliceStep s) := by
  induction l generalizing s with
  | nil => exact .refl s
  | cons k l ih => exact (ih _).after (spliceStep_within s k)

/-! ## The gate decision's record, and the hold it claims -/

/-- At the high-water level a claim for it waits. -/
def HoldClaimed (s : State) : Prop := 48 ≤ s.report.queue.length → Claim.queueHigh ∈ s.ctl.claims

theorem HoldClaimed.within {s t : State} (h : HoldClaimed s) (k : Within s t) : HoldClaimed t := fun high =>
  k.claims _ (h (k.records ▸ high))

/-- A record pushed within an operation: one more, and the hold claimed at the high-water level. -/
theorem pushRecord_inside (r : Record) {s : State} (hi : s.ctl.inOperation = true) :
    (pushRecord r s).ctl.inOperation = true ∧ (pushRecord r s).ctl.job = s.ctl.job ∧
    (pushRecord r s).pipe = s.pipe ∧ HoldClaimed (pushRecord r s) := by
  unfold pushRecord
  dsimp only
  split
  · unfold claim
    split
    · exact ⟨hi, rfl, rfl, fun _ => List.mem_append_right _ (List.mem_singleton.2 rfl)⟩
    next outside => exact absurd hi outside
  next low =>
    refine ⟨hi, rfl, rfl, fun high => absurd ?_ low⟩
    exact decide_eq_true high

/-- What the gate decision leaves of the records and the claims. -/
structure Decided (e : Entry) (s t : State) : Prop where
  operation : t.ctl.inOperation = true
  job : t.ctl.job = s.ctl.job
  kinds : kinds t = kinds s
  records : t.report.queue.length = s.report.queue.length + if e.isSetEntry then 1 else 0
  claimed : HoldClaimed s → HoldClaimed t

theorem decideEntry_decided (p : Policy) (e : Entry) {s : State} (hi : s.ctl.inOperation = true) :
    Decided e s (decideEntry p e s) := by
  cases e with
  | blank => exact ⟨hi, rfl, rfl, rfl, fun h => h⟩
  | pending => exact ⟨hi, rfl, rfl, rfl, fun h => h⟩
  | set x =>
    have pushed : ∀ r u, Decided (.set x) s (pushRecord r (s.setSpoil u)) := fun r u => by
      obtain ⟨operation, job, pipe, claimed⟩ := pushRecord_inside r (s := s.setSpoil u) hi
      refine ⟨operation, job, by rw [kinds, pipe]; rfl, ?_, fun _ => claimed⟩
      rw [pushRecord_report]
      exact List.length_append
    have raised : ∀ r u kind, Decided (.set x) s (raise kind 0 x.serial (pushRecord r (s.setSpoil u))) := fun r u kind => by
      have before := pushed r u
      have within := raise_within before.operation kind 0 x.serial
      exact ⟨within.inside before.operation, within.job.trans before.job, within.kinds.trans before.kinds,
        (congrArg List.length within.records).trans before.records, fun h => (before.claimed h).within within⟩
    unfold decideEntry decideSet
    dsimp only
    split
    · exact pushed ..
    · exact pushed ..
    · exact pushed ..
    · exact raised ..
    · exact raised ..

/-! ## The claims applied -/

theorem applyClaim_report (c : Claim) (s : State) : (applyClaim c s).report = s.report := by
  by_cases drained : c = .drained
  · subst drained
    simp only [applyClaim]
    split <;> rfl
  · obtain ⟨p, j, eq⟩ := applyClaim_changes drained s
    rw [eq]
    rfl

theorem applyClaim_run {c : Claim} {s : State} (h : (applyClaim c s).ctl.job = .run) : s.ctl.job = .run := by
  have aside := applyClaim_aside c s
  cases running : s.ctl.job.running with
  | false => rw [← aside.still running, h]
  | true =>
    unfold applyClaim at h
    split at h
    · split at h
      · exact h
      · split at h
        · cases h
        · exact h
      · split at h
        · cases h
        · exact h
    · split at h
      · cases h
      · exact h
    · split at h
      · cases h
      · exact h
    · unfold holdTest at h
      split at h
      · cases h
      · exact h

/-- With the hold claimed at the high-water level the job is not in RUN once the claims are applied. -/
theorem foldl_applyClaim_high {cs : List Claim} (claimed : .queueHigh ∈ cs) {s : State}
    (high : 48 ≤ s.report.queue.length) : (cs.foldl (fun s c => applyClaim c s) s).ctl.job ≠ .run := by
  have stays : ∀ (cs : List Claim) (s : State), s.ctl.job ≠ .run → (cs.foldl (fun s c => applyClaim c s) s).ctl.job ≠ .run := by
    intro cs
    induction cs with
    | nil => exact fun s h => h
    | cons c cs ih => exact fun s h => ih _ fun run => h (applyClaim_run run)
  induction cs generalizing s with
  | nil => cases claimed
  | cons c cs ih =>
    rw [List.foldl_cons]
    rcases List.mem_cons.1 claimed with rfl | later
    · refine stays cs _ fun run => ?_
      have cause : holdCause s = true := by
        simp [holdCause, queueCause, queueLevel, Config.highWaterLevel, high]
      have was := applyClaim_run run
      change (holdTest s).ctl.job = .run at run
      rw [holdTest, if_pos ⟨was, cause⟩] at run
      cases run
    · exact ih later (by rw [applyClaim_report]; exact high)

theorem endOperation_high {s : State} (claimed : HoldClaimed s) (high : 48 ≤ s.report.queue.length) :
    (endOperation s).ctl.job ≠ .run :=
  foldl_applyClaim_high ((arrange_perm _ _).mem_iff.2 (claimed high)) high

/-! ## The pitch operation -/

/-- Before the operation's claims are applied: the bound, with the hold claimed. -/
structure Ending (s : State) : Prop where
  total : s.report.queue.length + setCount s ≤ 126
  claimed : s.ctl.job = .run → HoldClaimed s
  length : s.pipe.entries.length ≤ 78

theorem setCount_dropLast {es : List Entry} {e : Entry} (last : es.getLast? = some e) :
    (es.filter Entry.isSetEntry).length =
      (es.dropLast.filter Entry.isSetEntry).length + if e.isSetEntry then 1 else 0 := by
  obtain ⟨front, rfl⟩ := List.getLast?_eq_some_iff.1 last
  rw [List.dropLast_concat, List.filter_append, List.length_append]
  rw [List.filter_singleton]
  cases e.isSetEntry <;> rfl

/-- What stages 2 and 3 do to the levels, one entry departing. -/
structure Shifted (s t : State) : Prop where
  operation : t.ctl.inOperation = true
  job : t.ctl.job = s.ctl.job
  claimed : HoldClaimed s → HoldClaimed t
  level : t.report.queue.length ≤ s.report.queue.length + 1
  sets : t.report.queue.length + setCount t ≤ s.report.queue.length + setCount s
  length : t.pipe.entries.length ≤ s.pipe.entries.length - 1

section
variable {t : Ticket} {s : State} (hi : s.ctl.inOperation = true)
include hi

/-- Stages 2 and 3: the entry that departs is a record where it is a set. -/
theorem shiftAndDecide_shifted : Shifted s (shiftAndDecide t s) := by
  unfold shiftAndDecide
  split
  next e last =>
    obtain ⟨front, entries⟩ := List.getLast?_eq_some_iff.1 last
    have decided := decideEntry_decided t.policy e (s := s.setEntries s.pipe.entries.dropLast) hi
    refine ⟨decided.operation, decided.job, decided.claimed, ?_, ?_, ?_⟩
    · rw [decided.records]
      exact Nat.add_le_add_left (by split <;> decide) _
    · have counted := setCount_dropLast last
      have before : setCount s = (s.pipe.entries.filter Entry.isSetEntry).length := rfl
      have left : setCount (s.setEntries s.pipe.entries.dropLast) =
          (s.pipe.entries.dropLast.filter Entry.isSetEntry).length := rfl
      rw [setCount_congr decided.kinds, decided.records, before, left, counted, State.setEntries_report]
      omega
    · rw [length_of_kinds decided.kinds, State.setEntries_pipe]
      dsimp only
      rw [List.length_dropLast]
  next none =>
    have empty : s.pipe.entries = [] := by simpa using none
    exact ⟨hi, rfl, id, Nat.le_succ _, le_rfl, by rw [empty]; decide⟩

/-- Stage 4: one entry more, a set in RUN alone. -/
theorem openNew_entries (t : Ticket) : kinds (openNew t s) = (opening t s).1.isSetEntry :: kinds s := by
  have same := (opening_within hi t).kinds
  unfold openNew
  exact congrArg _ same

theorem openNew_rest (t : Ticket) : (openNew t s).ctl.inOperation = true ∧ (openNew t s).ctl.job = s.ctl.job ∧
    (openNew t s).report.queue = s.report.queue ∧ (HoldClaimed s → HoldClaimed (openNew t s)) := by
  have within := opening_within hi t
  exact ⟨within.inside hi, within.job, within.records, fun claimed high => (claimed.within within) high⟩

end

theorem opening_set_run {t : Ticket} {s : State} (h : (opening t s).1.isSetEntry = true) : s.ctl.job = .run := by
  unfold opening at h
  split at h
  next run => exact run
  next => cases h

theorem HoldClaimed.of_low {s : State} (low : s.report.queue.length < 48) : HoldClaimed s := fun high =>
  absurd high (Nat.not_le.2 low)

theorem opened_ending {t : Ticket} {s : State} (h : Levels s) (hi : s.ctl.inOperation = true)
    (running : s.ctl.job.running = true) : Ending (openNew t (shiftAndDecide t s)) ∧
      (openNew t (shiftAndDecide t s)).ctl.inOperation = true := by
  have total := h.total running
  have length := h.length running
  obtain ⟨operation, job, claimed, level, sets, short⟩ := shiftAndDecide_shifted (t := t) hi
  generalize shiftAndDecide t s = d at *
  obtain ⟨inside, job', records, claimed'⟩ := openNew_rest operation t
  have kinds' := openNew_entries operation t
  have more : (openNew t d).pipe.entries.length = d.pipe.entries.length + 1 := by
    simpa [kinds] using congrArg List.length kinds'
  have counts : setCount (openNew t d) = setCount d + if (opening t d).1.isSetEntry then 1 else 0 := by
    rw [setCount_eq, setCount_eq, kinds', List.count_cons]
    cases (opening t d).1.isSetEntry <;> rfl
  refine ⟨⟨?_, fun run => ?_, by omega⟩, inside⟩
  · rw [records]
    by_cases run : s.ctl.job = .run
    · have low := h.run run
      have := setCount_le_length (openNew t d)
      omega
    · rw [counts, if_neg fun set => run (job ▸ opening_set_run set)]
      omega
  · exact claimed' (claimed (.of_low (h.run (job ▸ job' ▸ run))))

/-- The claims of an ended operation applied: the bound again. -/
theorem endOperation_levels {s : State} (h : Ending s) (made : s.store.scanMade = true)
    (distance : ∀ t, s.ticket.active = some t → t.gateDist ≤ 78) (remakes : s.spoil.remakes.length ≤ 32) :
    Levels (endOperation s) := by
  have aside := endOperation_aside s
  have sum := h.total
  have level := aside.level
  have sets := aside.sets
  refine ⟨by rw [aside.store]; exact made, fun t active => distance t (aside.active ▸ active), fun run => ?_, fun _ => ?_,
    ?_, fun _ => le_trans aside.length h.length, by rw [aside.remakes]; exact remakes⟩
  · by_cases high : 48 ≤ s.report.queue.length
    · rcases aside.run run with was | low
      · exact absurd run (endOperation_high (h.claimed was) high)
      · exact low
    · omega
  · omega
  · omega

theorem pitchOperation_levels {t : Ticket} (first : List (FaultKind × BitVec 3 × Word)) {s : State} (h : Levels s)
    (running : s.ctl.job.running = true) : Levels (pitchOperation t first s) := by
  have remakes := (pitchOperation_keeps t first s).remakes h.remakes
  unfold pitchOperation at remakes ⊢
  dsimp only at remakes ⊢
  generalize hx : (s.setPipe { s.pipe with pitchCount := s.pipe.pitchCount + 1 }).setCtl
    { (s.setPipe { s.pipe with pitchCount := s.pipe.pitchCount + 1 }).ctl with inOperation := true, claims := [] } = x
    at remakes ⊢
  have inside : x.ctl.inOperation = true := by rw [← hx]; rfl
  have start : Levels x ∧ x.ctl.job = s.ctl.job := by
    subst hx
    exact ⟨Lowers.keep (s := s) ⟨rfl, .inl rfl, id, .inl, le_rfl, le_rfl, le_rfl, le_rfl⟩ h, rfl⟩
  obtain ⟨levels, job⟩ := start
  obtain ⟨during, -⟩ := closingChecks_during t first inside
  have checked := levels.aside (closingChecks_aside t first x)
  have inside' : (closingChecks t first x).ctl.inOperation = true := during.operation.trans inside
  have going : (closingChecks t first x).ctl.job.running = true := by rw [during.job, job]; exact running
  generalize closingChecks t first x = y at *
  obtain ⟨ending, opened⟩ := opened_ending (t := t) checked inside' going
  have alongside := shiftAndDecide_alongside t y
  have new := opening_within (shiftAndDecide_shifted (t := t) inside').operation t
  have made : (openNew t (shiftAndDecide t y)).store.scanMade = true :=
    new.made.trans ((congrArg Store.scanMade alongside.store).trans checked.made)
  have active : (openNew t (shiftAndDecide t y)).ticket.active = y.ticket.active := new.active.trans alongside.active
  generalize openNew t (shiftAndDecide t y) = z at *
  have spliced := spliceSteps_within plies z
  have noticed := (drainedNotice_within (spliced.inside opened)).after spliced
  generalize drainedNotice (plies.foldl spliceStep z) = v at *
  refine endOperation_levels ⟨?_, fun run => (ending.claimed (noticed.job ▸ run)).within noticed, ?_⟩
    (noticed.made.trans made) (fun t' e => checked.distance t' (active ▸ noticed.active ▸ e)) ?_
  · rw [noticed.records, setCount_congr noticed.kinds]
    exact ending.total
  · rw [length_of_kinds noticed.kinds]
    exact ending.length
  · have after := endOperation_aside v
    rw [← after.remakes]
    exact remakes

theorem pitch_levels (first : List (FaultKind × BitVec 3 × Word)) {s : State} (h : Levels s) : Levels (pitch first s) := by
  have cleared : Levels (clearEncoder s) := h.aside (.setTimer _)
  unfold pitch
  dsimp only
  split
  · exact cleared.aside ((raiseAll_aside ..).after (.setTimer _))
  · exact cleared.aside ((raiseAll_aside ..).after (.setTimer _))
  · exact cleared.aside (raiseAll_aside ..)
  next notIdle notReady notClosing =>
    split
    next t active =>
      refine (pitchOperation_levels first cleared ?_).aside (settle_aside _)
      generalize (clearEncoder s).ctl.job = j at *
      cases j with
      | idle => exact absurd rfl notIdle
      | ready => exact absurd rfl notReady
      | closing => exact absurd rfl notClosing
      | run => rfl
      | hold => rfl
      | drain => rfl
      | halted => rfl
    · exact cleared

end Sys2Proof.Machine
end

section
/-! PROOFS. The levels of R175 across the commands and the scan, and the sizes kept by every step (O6). -/

namespace Sys2Proof.Machine
open Sys2Proof.Safety

/-! ## The gate distance of a ticket -/

theorem foldl_max_le {l : List Nat} {n b : Nat} (each : ∀ x ∈ l, x ≤ b) (start : n ≤ b) : l.foldl max n ≤ b := by
  induction l generalizing n with
  | nil => exact start
  | cons x l ih =>
    exact ih (fun y hy => each y (List.mem_cons_of_mem _ hy)) (max_le start (each x List.mem_cons_self))

theorem field_lt (w : Word) (hi lo : Nat) : field w hi lo < 2 ^ (hi + 1 - lo) := Nat.mod_lt _ (Nat.two_pow_pos _)

/-- Head distances have six bits and gate delays four (R196). -/
theorem ticketOf_gateDist (ws : List Word) : (ticketOf ws).gateDist ≤ 78 := by
  have heads : ∀ x ∈ (ticketOf ws).heads, x ≤ 63 := fun x hx => by
    obtain ⟨p, hp, rfl⟩ := List.mem_map.1 hx
    have member : ∃ k, p = plyDescOf ws k := by
      have all := (List.mem_filter.1 hp).1
      simp only [ticketOf, Six.toList, List.mem_cons, List.not_mem_nil, or_false] at all
      rcases all with rfl | rfl | rfl | rfl | rfl | rfl <;> exact ⟨_, rfl⟩
    obtain ⟨k, rfl⟩ := member
    exact Nat.le_of_lt_succ (field_lt _ 13 8)
  have collator : (ticketOf ws).collator ≤ 63 := foldl_max_le heads (Nat.zero_le _)
  have delay : (ticketOf ws).gateDelay < 16 := field_lt _ 11 8
  unfold Ticket.gateDist
  omega

/-! ## LOAD, START, RESUME and ABORT -/

theorem acceptLoad_levels {s : State} (h : Levels s) : Levels (acceptLoad s) := by
  unfold acceptLoad
  dsimp only
  refine chooseIfLeft_levels _ (setSettings_levels ?_)
  exact {
    made := h.made
    distance := fun t e => by
      obtain rfl := Option.some.inj e
      exact ticketOf_gateDist _
    run := fun e => by cases e
    total := fun e => by cases e
    level := h.level
    length := fun e => by cases e
    remakes := Nat.zero_le _ }

theorem level_of_queueCause {s : State} (h : ¬queueCause s = true) : s.report.queue.length < 48 :=
  Nat.lt_of_not_le fun high => h (decide_eq_true high)

theorem acceptStart_levels {s : State} (h : Levels s) (low : s.report.queue.length < 48) : Levels (acceptStart s) := by
  have short : gateDistOf s ≤ 78 := by
    unfold gateDistOf
    cases active : s.ticket.active with
    | none => exact Nat.zero_le _
    | some t => exact h.distance t active
  have filled : Levels (clearEncoder ((s.setEntries (List.replicate (gateDistOf s) .blank)).setJob .run)) := {
    made := h.made
    distance := h.distance
    run := fun _ => low
    total := fun _ => by
      have none : setCount (clearEncoder ((s.setEntries (List.replicate (gateDistOf s) .blank)).setJob .run)) = 0 := by
        refine List.length_eq_zero_iff.2 (List.filter_eq_nil_iff.2 fun e he => ?_)
        rw [List.eq_of_mem_replicate he]
        exact Bool.false_ne_true
      rw [none]
      exact h.level
    level := h.level
    length := fun _ => by
      refine le_trans (le_of_eq ?_) short
      exact List.length_replicate
    remakes := h.remakes }
  unfold acceptStart
  dsimp only
  refine Levels.aside ?_ (holdTest_aside _)
  split
  · rw [startReservations_eq]
    exact asksBy_levels _ _ _ filled
  · exact filled

theorem acceptResume_levels {s : State} (h : Levels s) (on : s.ctl.job = .hold ∨ s.ctl.job = .halted)
    (low : s.report.queue.length < 48) : Levels (acceptResume s) := by
  have running : s.ctl.job.running = true := by rcases on with e | e <;> rw [e] <;> rfl
  refine Levels.aside (Lowers.keep (s := s) (t := (clearCauses s).setJob .run) ?_ h) (holdTest_aside _)
  exact ⟨rfl, .inl rfl, fun _ => running, fun _ => .inr low, le_rfl, le_rfl, le_rfl, le_rfl⟩

theorem abortEntries_level (es : List Entry) (s : State) : (es.foldl abortEntry s).report.queue.length =
    s.report.queue.length + (es.filter Entry.isSetEntry).length := by
  induction es generalizing s with
  | nil => rfl
  | cons e es ih =>
    rw [List.foldl_cons, ih]
    cases e with
    | set x =>
      rw [abortEntry, pushRecord_report, List.filter_cons_of_pos rfl]
      simp only [List.length_append, List.length_cons, List.length_nil, State.setSpoil_report]
      omega
    | blank => rfl
    | pending => rfl

theorem acceptAbort_levels {s : State} (h : Levels s) (running : s.ctl.job.running = true) : Levels (acceptAbort s) := by
  have blanked := blankPending_aside s
  have voided := Alongside.foldl abortEntry_alongside (blankPending s).pipe.entries.reverse (blankPending s)
  have level := abortEntries_level (blankPending s).pipe.entries.reverse (blankPending s)
  have sets : ((blankPending s).pipe.entries.reverse.filter Entry.isSetEntry).length = setCount (blankPending s) := by
    rw [List.filter_reverse, List.length_reverse]
    rfl
  have total := h.total running
  have fewer := blanked.level
  have counted := blanked.sets
  refine ⟨?_, fun t active => ?_, (by rintro ⟨⟩), (by rintro ⟨⟩), ?_, (by rintro ⟨⟩),
    (acceptAbort_keeps s).remakes h.remakes⟩
  · exact (congrArg Store.scanMade (voided.store.trans blanked.store)).trans h.made
  · exact h.distance t ((voided.active.trans blanked.active) ▸ active)
  · change ((blankPending s).pipe.entries.reverse.foldl abortEntry (blankPending s)).report.queue.length ≤ 126
    omega

/-! ## CLOSE -/

theorem unmadeEntries_level (l : List RemakeEntry) (s : State) : (l.foldl unmadeEntry s).report.queue.length =
    s.report.queue.length + l.length := by
  induction l generalizing s with
  | nil => rfl
  | cons x l ih =>
    rw [List.foldl_cons, ih, unmadeEntry, pushRecord_report]
    simp only [List.length_append, List.length_cons, List.length_nil, State.setSpoil_report]
    omega

theorem pushRecords_level (rs : List Record) (s : State) : (pushRecords rs s).report.queue.length =
    s.report.queue.length + rs.length := by
  unfold pushRecords
  induction rs generalizing s with
  | nil => rfl
  | cons r rs ih =>
    rw [List.foldl_cons, ih, pushRecord_report]
    simp only [List.length_append, List.length_cons, List.length_nil]
    omega

theorem pushSummaries_level (t : Ticket) (s : State) :
    (pushSummaries t s).report.queue.length ≤ s.report.queue.length + 5 := by
  have few : t.activeStreams.length ≤ 4 := List.length_filter_le ..
  rw [pushSummaries, pushRecords_level, List.length_append, List.length_map, List.length_singleton]
  omega

theorem pushSummaries_keeps (t : Ticket) (s : State) : Keeps s (pushSummaries t s) := pushRecords_keeps ..

section
variable {s : State} (h : Levels s)
include h

theorem askClose_levels (t : Ticket) {told : State → State} (tells : ∀ s, Levels s → Levels (told s)) (i : StreamId) :
    Levels (askClose t told i s) := by
  unfold askClose
  dsimp only
  split
  · exact tells _ (closeFailed_levels h ..)
  · exact choose_levels tells (h.setStore rfl)

end

theorem askCloses_levels (t : Ticket) (l : List StreamId) {s : State} (h : Levels s) : Levels (askCloses t l s) := by
  induction l generalizing s with
  | nil => exact closeIfDone_levels h
  | cons i l ih =>
    cases l with
    | nil => exact askClose_levels h t (fun _ => closeIfDone_levels) i
    | cons j rest => exact ih (askClose_levels h t (fun _ k => k) i)

/-- Records pushed in CLOSING, within the bound. -/
theorem Levels.pushed {s t : State} (h : Levels s) (closing : s.ctl.job = .closing) (k : Alongside s t) (keeps : Keeps s t)
    (level : t.report.queue.length ≤ 126) : Levels t where
  made := (congrArg Store.scanMade k.store).trans h.made
  distance t active := h.distance t (k.active ▸ active)
  run e := by cases (k.closing_iff.2 closing).symm.trans e
  total e := by rw [k.closing_iff.2 closing] at e; cases e
  level := level
  length e := by rw [k.closing_iff.2 closing] at e; cases e
  remakes := keeps.remakes h.remakes

theorem acceptClose_levels (tag : Byte) {s : State} (h : Levels s) (low : s.report.queue.length < 48) :
    Levels (acceptClose tag s) := by
  unfold acceptClose
  dsimp only
  refine chooseIfLeft_levels _ ?_
  generalize hx : State.setTicket (answer 7 tag .pending 0 0 (s.setJob .closing)) _ = x
  have start : Levels x ∧ x.ctl.job = .closing ∧ x.report.queue.length < 48 := by
    subst hx
    refine ⟨Lowers.keep (s := s) ?_ h, rfl, low⟩
    exact ⟨rfl, .inl rfl, (by rintro ⟨⟩), (by rintro ⟨⟩), le_rfl, le_rfl, le_rfl, le_rfl⟩
  obtain ⟨levels, closing, low⟩ := start
  have remade : (closeRemakes x).report.queue.length = x.report.queue.length + x.spoil.remakes.length :=
    unmadeEntries_level ..
  have remakes := levels.remakes
  have dropped := closeRemakes_alongside x
  have emptied := levels.pushed closing dropped (closeRemakes_keeps x) (by omega)
  split
  next t active =>
    have summed := pushSummaries_level t (closeRemakes x)
    refine askCloses_levels _ _ (emptied.pushed (dropped.closing_iff.2 closing) (pushSummaries_alongside t _)
      (pushSummaries_keeps t _) (by omega))
  · exact closeIfDone_levels emptied

/-! ## Every command -/

theorem acceptRetire_levels (tag : Byte) {s : State} (h : Levels s) : Levels (acceptRetire tag s) :=
  joinQueue_levels _ (h.of_eq rfl rfl rfl rfl rfl rfl)

theorem command_levels (code tag : Byte) {s : State} (h : Levels s) : Levels (commandOf code tag s) := by
  have answered : ∀ {u} code r check detail, Levels u → Levels (answer code tag r check detail u) :=
    fun _ _ _ _ k => k.aside (answer_aside ..)
  have settled : ∀ {u}, Levels u → Levels (settle u) := fun k => k.aside (settle_aside _)
  unfold commandOf
  split
  · unfold loadCommand
    split
    · exact answered _ _ _ _ h
    · split
      · exact answered _ _ _ _ h
      · exact answered _ _ _ _ (acceptLoad_levels h)
  split
  · unfold startCommand
    split
    · exact answered _ _ _ _ h
    · split
      · exact answered _ _ _ _ h
      · split
        · exact answered _ _ _ _ h
        next low =>
          split
          · exact answered _ _ _ _ h
          · exact answered _ _ _ _ (acceptStart_levels h (level_of_queueCause low))
  split
  · have cleared : Levels (clearCauses s) := h.aside (.setCtl rfl)
    unfold stopCommand
    split
    next run => exact settled (answered _ _ _ _ (h.aside (enterDrain_aside (run_running run))))
    next hold =>
      exact settled (answered _ _ _ _ (cleared.aside (enterDrain_aside (s := clearCauses s)
        (by rw [show (clearCauses s).ctl.job = s.ctl.job from rfl, hold]; rfl))))
    next halted =>
      exact settled (answered _ _ _ _ (cleared.aside (enterDrain_aside (s := clearCauses s)
        (by rw [show (clearCauses s).ctl.job = s.ctl.job from rfl, halted]; rfl))))
    · exact answered _ _ _ _ h
    · exact answered _ _ _ _ h
  split
  · unfold holdCommand
    split
    next run =>
      have flagged : Levels (s.setCtl { s.ctl with command := true }) := h.aside (.setCtl rfl)
      exact settled (answered _ _ _ _ (flagged.aside (enterHold_aside (s := s.setCtl { s.ctl with command := true })
        (run_running run))))
    · exact answered _ _ _ _ h
    · exact answered _ _ _ _ h
  split
  · unfold resumeCommand
    split
    · exact answered _ _ _ _ h
    next on =>
      split
      · exact answered _ _ _ _ h
      · split
        · exact answered _ _ _ _ h
        next low => exact answered _ _ _ _ (acceptResume_levels h (by tauto) (level_of_queueCause low))
  split
  · unfold abortCommand
    split
    next on =>
      refine settled (answered _ _ _ _ (acceptAbort_levels h ?_))
      rcases on with e | e | e <;> rw [e] <;> rfl
    · exact answered _ _ _ _ h
  split
  · unfold closeCommand
    split
    · exact answered _ _ _ _ h
    · split
      · exact answered _ _ _ _ h
      next low => exact acceptClose_levels tag h (level_of_queueCause low)
  split
  · unfold spoilCommand
    dsimp only
    split
    · exact answered _ _ _ _ h
    · split
      · exact answered _ _ _ _ h
      · split
        · exact settled (answered _ _ _ _ (h.aside ((raise_aside ..).after (markAt_aside ..))))
        · exact answered _ _ _ _ h
  split
  · have refused : ∀ r detail, Levels (answer 9 tag r 0 detail s) := fun r detail => answered _ _ _ _ h
    unfold retireCommand
    dsimp only
    repeat' split
    all_goals first | exact refused .. | exact acceptRetire_levels tag h
  split
  · exact h.aside ((answer_aside ..).after (.setReport le_rfl))
  split
  · exact h.aside ((answer_aside ..).after (.setReport le_rfl))
  · exact answered _ _ _ _ h

theorem levels_invariable : Invariable Levels where
  aside k h := h.aside k
  command code tag _ _ h := command_levels code tag h
  pitch first _ h := pitch_levels first h
  active h := powerActive_levels h
  inactive _ h := chooseIfLeft_levels _ (powerInactive_levels h)

/-! ## The scan and every step -/

/-- Before its scan the part has no record and no job. -/
theorem Unscanned.queueBound {table : List BookRow} {s : State} (h : Unscanned table s) : QueueBound s where
  distance t e := by cases h.active.symm.trans e
  run e := by cases h.job.symm.trans e
  running e := by rw [h.job] at e; cases e
  level := by rw [h.records]; exact Nat.zero_le _
  unscanned := h.beforeScan

theorem scan_levels {table : List BookRow} {s : State} (h : Unscanned table s)
    (fits : (scanTable s.store.array).length ≤ 32) (remakes : s.spoil.remakes.length ≤ 32) : Levels (scan s) := by
  have works : ∀ c, (scanned s.store).phase ≠ .failed c := fun c failed => by cases h.phase.symm.trans failed
  obtain ⟨store, records, -⟩ :=
    foldl_recoverBook ((scanned s.store).table.filter (·.opened)) (s := s.setStore (scanned s.store)) works
  have store : (booksRecovered s).store = _ := store
  have records : (booksRecovered s).report.queue = _ := records
  obtain ⟨still, active⟩ := booksRecovered_job s
  have idle := still.2 h.job
  have kept : Keeps s (booksRecovered s) :=
    Keeps.trans (t := s.setStore (scanned s.store)) (.setStore rfl id) (Keeps.foldl recoverBook_keeps _ _)
  have bound : Levels (booksRecovered s) := {
    made := by rw [store]; rfl
    distance := fun t e => by cases (active.trans h.active).symm.trans e
    run := fun e => by cases idle.symm.trans e
    total := fun e => by rw [idle] at e; cases e
    level := by
      rw [records, List.length_append, List.length_map]
      have few : ((scanned s.store).table.filter (·.opened)).length ≤ (scanTable s.store.array).length :=
        List.length_filter_le ..
      have none : (s.setStore (scanned s.store)).report.queue = [] := h.records
      rw [none, List.length_nil]
      omega
    length := fun e => by rw [idle] at e; cases e
    remakes := kept.remakes remakes }
  rw [scan_eq]
  split
  · exact becomeFailed_levels _ bound
  · exact chooseNext_levels (endRecovery_levels bound)

theorem exec_queueBound {c : Instr} {s t : State} (shape : PipelineShape s) (sizes : Sizes s) (h : QueueBound s)
    (fits : c = .recoveryScan → (scanTable s.store.array).length ≤ 32) (run : exec c s = .next t) : QueueBound t := by
  by_cases reset : (∃ b cut, c = .powerOnReset b cut) ∨ ∃ cut, c = .warmReset cut
  · rcases reset with ⟨b, cut, rfl⟩ | ⟨cut, rfl⟩
    · cases run
      exact (resetTo_unscanned _ cut _ rfl).queueBound
    · cases run
      exact (resetTo_unscanned _ cut _ rfl).queueBound
  have noPower : ∀ b cut, c ≠ .powerOnReset b cut := fun b cut e => reset (.inl ⟨b, cut, e⟩)
  have noWarm : ∀ cut, c ≠ .warmReset cut := fun cut e => reset (.inr ⟨cut, e⟩)
  cases made : s.store.scanMade with
  | false =>
    have asleep := unscanned_of_beforeScan h.unscanned made
    by_cases scans : c = .recoveryScan
    · subst scans
      have asleep : Unscanned s.store.table (begin s) := asleep.aside (.setBus _)
      obtain rfl := Host.Outcome.next.inj run
      dsimp only
      split
      · exact asleep.queueBound
      · exact (scan_levels asleep (fits rfl) sizes.remakes).bound
    · exact (exec_unscanned asleep noPower noWarm scans run).queueBound
  | true =>
    have levels := levels_of_bound h shape sizes made
    have begun : Levels (begin s) := levels.aside (.setBus _)
    have written : ∀ i n x, Levels (writeSlot i n x (begin s)) := fun i n x => begun.setStore rfl
    refine Levels.bound ?_
    rcases ordinary_or c with hc | ⟨b, cut, rfl⟩ | ⟨cut, rfl⟩ | rfl | ⟨v, rfl⟩ | ⟨v, rfl⟩ | ⟨r, rfl⟩
    · exact levels_invariable.exec hc levels run
    · exact absurd rfl (noPower b cut)
    · exact absurd rfl (noWarm cut)
    · rw [exec_recoveryScan, if_pos (by rw [made, Bool.or_true])] at run
      obtain rfl := Host.Outcome.next.inj run
      exact begun
    · rcases appendCompletion_cases run with rfl | ⟨i, n, seq, body, -, rfl⟩
      · exact begun
      · exact finishOperation_levels _ (appendVerified_levels body v (written ..))
    · rcases stepCompletion_cases run with rfl | ⟨i, n, seq, body, c, -, -, rfl⟩
      · exact begun
      · obtain ⟨sectors, compaction, fullWait, rest⟩ :=
          stepVerified_rest c body v (writeSlot i n { seq, body, sound := v } (begin s)).store
        refine finishOperation_levels _ ((written ..).setStore ?_)
        rw [rest]
    · rcases eraseCompletion_cases run with rfl | ⟨i, -, rfl⟩
      · exact begun
      · refine finishErase_levels _ (begun.setStore ?_)
        cases r <;> rfl

/-- Settles O6: the sizes, the disposition queue's bound and the book table's, each by its own invariant. -/
theorem sizesKeptByStep : Obligations.SizesKeptByStep := fun s t h => by
  rcases step_cases h with rfl | ⟨c, rest, pending, run⟩
  · exact ⟨id, fun _ _ _ _ bound => ⟨bound, le_trans bound.level (by decide)⟩, fun _ bound => ⟨bound, bound.rows⟩⟩
  · have taken : c = .recoveryScan → s.pending.head? = some .recoveryScan := fun e => by rw [pending, e]; rfl
    have moved : Aside s { s with pending := rest } := .of_beside (.of_eq rfl rfl rfl) rfl le_rfl rfl rfl
    refine ⟨fun sizes => exec_sizes (s := { s with pending := rest }) ⟨sizes.staged, sizes.slots, sizes.runs,
      sizes.remakes, sizes.requests⟩ run, fun _ shape sizes fits bound => ?_, fun fits bound => ?_⟩
    · have bound := exec_queueBound (s := { s with pending := rest }) (shape_of_eq (s := s) rfl rfl rfl shape)
        ⟨sizes.staged, sizes.slots, sizes.runs, sizes.remakes, sizes.requests⟩
        ⟨bound.distance, bound.run, bound.running, bound.level, bound.unscanned⟩ (fun e => fits (taken e)) run
      exact ⟨bound, le_trans bound.level (by decide)⟩
    · have bound := exec_bookBound (s := { s with pending := rest })
        ⟨bound.rows, bound.distinct, bound.room, bound.shared, bound.held, bound.noJob, bound.job, bound.once, bound.alone,
          bound.ahead, bound.retiring, bound.failed, bound.flight, bound.unscanned⟩ (fun e => fits (taken e)) run
      exact ⟨bound, bound.rows⟩

end Sys2Proof.Machine
end

section
/-! PROOFS. The pitch operation on a response held away from position 0 (O41). -/

namespace Sys2Proof.Machine.StrayHold
open Sys2Proof.Safety

/-! ## A response held where nothing waits

`PipelineShape` does not tie a held response to a ply whose head stands at position 0. In the state below ply 1 has its
head at the last position, on a set, and its feeder holds a token of an inactive stream, while a PENDING entry stands
at position 0. The pitch operation ends the wait and releases the token against that set (R34, R68), which is marked
TOKEN_BAD, cause 3 (R57), before its decision. `Departs` leaves a released response no cause but FIELD_BROKEN. -/

/-- A ply at head distance h, with neither fields nor a tally. -/
def plyAt (h : Nat) : PlyDesc := { plyDescOf [] 0 with enabled := true, head := h }

/-- C is 1, so P_1 is 1 and P_2 is 0; with a gate delay of 1 the pipeline has two positions. No stream is active. -/
def ticket : Ticket :=
  { ticketOf [] with
    policy := .void
    gateDelay := 1
    plies := ((Six.const (plyDescOf [] 0)).set 0 (plyAt 0)).set 1 (plyAt 1) }

/-- The clean set at the last position. -/
def lastSet : SetEntry := openedSet 1 1 (.const none) 0 0 0

/-- A field token at the first word of ply 1's image slot. -/
def response : Response := { addr := 0x10000, ok := true, words := [0xA7040030] }

def state : State :=
  { State.reset with
    ticket := { TicketBlock.cleared with active := some ticket }
    ctl := { JobControl.cleared with job := .run }
    pipe := { entries := [.pending 1 0 0, .set lastSet], pitchCount := 1, opened := 1, reserveWait := 0 }
    path :=
      { wbase := 0
        feeders := (Six.const Feeder.cleared).set 0 { Feeder.cleared with queue := [response], held := true } } }

theorem state_shape : PipelineShape state where
  ticket := by decide
  delay := by rintro t ⟨⟩; decide
  running := by decide
  others := by decide
  behind := by decide
  first := fun _ => rfl

/-- What the released response makes of that set. -/
def markedSet : SetEntry := lastSet.mark .tokenBad (some 0)

/-- The set is decided with cause 3 marked. -/
theorem state_records : (pitchOperation ticket [] state).report.queue = [markedSet.record .void 0] := by
  decide +kernel

/-- The checks of the departure find nothing on the set. -/
theorem state_checked :
    (tallyCheck ticket (imageChecks ticket state.pipe.entries).1).1.getLast? = some (.set lastSet) := by
  decide +kernel

/-- Under VOID a decision pushes one record, which carries the causes of the set and no others. -/
theorem decideSet_void_record (e : SetEntry) (s : State) :
    ∃ kind, (decideSet .void e s).report.queue = s.report.queue ++ [e.record kind 0] := by
  by_cases clean : e.causes = 0
  · have decided : decisionOf .void s.spoil.remakes.length e = .pass .good := if_pos clean
    exact ⟨.good, by rw [decideSet, decided, pushRecord_report]; rfl⟩
  · have decided : decisionOf .void s.spoil.remakes.length e = .divert .void := if_neg clean
    exact ⟨.void, by rw [decideSet, decided, pushRecord_report]; rfl⟩

/-- No entry that `Departs` allows is decided with the record the operation pushes. -/
theorem departs_records {gone : Entry} (departs : Departs ticket state gone) :
    (decideEntry .void gone state).report.queue ≠ [markedSet.record .void 0] := by
  obtain ⟨e, rfl, -, causes, -⟩ := departs.checked lastSet state_checked
  obtain ⟨kind, pushed⟩ := decideSet_void_record e state
  intro same
  have record : e.record kind 0 = markedSet.record .void 0 := List.singleton_inj.1 (pushed.symm.trans same)
  have same : e.causes ||| 0 = markedSet.causes ||| 0 := by injection record
  have marked : e.causes = markedSet.causes := BitVec.or_zero.symm.trans (same.trans BitVec.or_zero)
  exact absurd (marked ▸ causes 3 (by decide)) (by decide)

/-- Refutes O41: the set that departs may be marked TOKEN_BAD by a response released within the operation, where a
feeder holds one although its head does not stand at position 0, which `PipelineShape` allows. -/
theorem not_pitchOperationMovesSets : ¬ Obligations.PitchOperationMovesSets := fun h => by
  obtain ⟨-, -, -, -, -, -, -, -, -, -, gone, d, departs, rfl, records, -⟩ :=
    h.1 ticket [] state _ state_shape rfl rfl rfl
  exact departs_records departs (records.symm.trans state_records)

end Sys2Proof.Machine.StrayHold
end
